-- ==== Sys2Proof/Word.lean ====
section
/-! DEFINITION. The words of the machine: a byte (20_memory.md R60), a segment selector (10_state.md R35), a
register or linear address of 64 bits (10_state.md R20). -/

namespace Sys2Proof

/-- A byte of memory or of an instruction (R60). -/
abbrev Byte := BitVec 8

/-- A segment selector, 16 bits (R35). -/
abbrev Sel := BitVec 16

/-- A 64-bit register, a linear address, a popped value zero-extended (R119 to R121). -/
abbrev Word := BitVec 64

end Sys2Proof
end

