-- ==== Sys2Proof/Syntax.lean ====
section
/-! DEFINITION. The instructions, one constructor per row of spec/opcode_table.json, and what decodes them
(30_encoding.md). -/

namespace Sys2Proof

/-- The three operand sizes (30_encoding.md R94). -/
inductive OpSize where
  | w16
  | w32
  | w64
deriving DecidableEq, Repr

/-- The one-byte legacy prefixes this instruction takes: 66H (R93) and LOCK, F0H (R96). -/
inductive LegacyPrefix where
  | opSize
  | lock
deriving DecidableEq, Repr

/-- The bytes before the opcode CF, in the order they stand in memory: legacy ones, then at most one REX
byte, whose low four bits W R X B are kept (R90, R92). -/
structure Prefixes where
  legacy : List LegacyPrefix
  rex : Option (BitVec 4)
deriving DecidableEq, Repr

/-- The instruction, one constructor per row of spec/opcode_table.json in the table's order. -/
inductive Instr where
  /-- `CF` where the default operand size is 16 (R110). -/
  | iret (p : Prefixes)
  /-- `66 CF` where the default operand size is 32 (R110). -/
  | iret66 (p : Prefixes)
  /-- `CF` where the default operand size is 32 (R111). -/
  | iretd (p : Prefixes)
  /-- `66 CF` where the default operand size is 16 (R111). -/
  | iretd66 (p : Prefixes)
  /-- `REX.W + CF` in 64-bit mode (R112). -/
  | iretq (p : Prefixes)
  /-- A row above with LOCK among its prefix bytes: illegal (R96). -/
  | lockIret (p : Prefixes)
deriving DecidableEq, Repr

/-- What decoding reads of the state before the instruction: 64-bit mode, and `CS.DB` (R101). -/
structure DecodeCtx where
  mode64 : Bool
  csDB : Bool
deriving DecidableEq, Repr

/-- Why a byte sequence is no instruction of this model. -/
inductive DecodeRefusal where
  /-- The opcode of an instruction outside the scope (00_scope.md R5; 48H outside 64-bit mode is one, R95). -/
  | otherOpcode (b : Byte)
  /-- A segment override, 67H, F2H or F3H: an IRET with one of them is refused (R97, decision D22). -/
  | unsupportedPrefix (b : Byte)
  /-- A REX byte that does not stand immediately before the opcode (R92). -/
  | misplacedRex (b : Byte)
  /-- The bytes end before an opcode. -/
  | noOpcode
deriving DecidableEq, Repr

end Sys2Proof
end

