-- ==== Sys2Proof/Machine/OperandSize.lean ====
section
/-! DEFINITION. The resolution of the operand size before the instruction executes (30_encoding.md R93, R94),
and the lengths that follow from the bytes. -/

namespace Sys2Proof

/-- Bytes of one pop: `OperandSize / 8` (40_iret_common.md R116). -/
def OpSize.bytes : OpSize → Nat
  | .w16 => 2
  | .w32 => 4
  | .w64 => 8

/-- The operand size is 32 or 64, so the flags image has the fields above bit 15 (40_iret_common.md R122). -/
def OpSize.wideImage : OpSize → Bool
  | .w16 => false
  | .w32 | .w64 => true

/-- `REX.W`, bit 3 of the REX byte (R92). -/
def Prefixes.rexW (p : Prefixes) : Bool :=
  match p.rex with
  | some wrxb => wrxb.getLsbD 3
  | none => false

/-- The 66H byte is present (R93). -/
def Prefixes.hasOpSize (p : Prefixes) : Bool :=
  p.legacy.contains .opSize

/-- The LOCK byte is present (R96). -/
def Prefixes.hasLock (p : Prefixes) : Bool :=
  p.legacy.contains .lock

/-- Number of bytes before the opcode (R90). -/
def Prefixes.length (p : Prefixes) : Nat :=
  p.legacy.length + (if p.rex.isSome then 1 else 0)

/-- The default operand size is 32: always in 64-bit mode, elsewhere when `CS.DB = 1` (R94). -/
def defaultIs32 (c : DecodeCtx) : Bool :=
  c.mode64 || c.csDB

/-- `OperandSize` (R94): REX.W gives 64 and wins over 66H; 66H takes the other of 16 and 32. -/
def operandSize (c : DecodeCtx) (p : Prefixes) : OpSize :=
  if c.mode64 && p.rexW then .w64
  else if defaultIs32 c == p.hasOpSize then .w16
  else .w32

/-- The bytes before the opcode of an instruction. -/
def Instr.prefixes : Instr → Prefixes
  | .iret p | .iret66 p | .iretd p | .iretd66 p | .iretq p | .lockIret p => p

/-- The length in bytes: `1 + number of prefix bytes` (R90). -/
def Instr.length (i : Instr) : Nat :=
  i.prefixes.length + 1

/-- The operand size a constructor executes with (R110 to R112); none for the illegal LOCK row (R96). -/
def Instr.opSize : Instr → Option OpSize
  | .iret _ | .iret66 _ => some .w16
  | .iretd _ | .iretd66 _ => some .w32
  | .iretq _ => some .w64
  | .lockIret _ => none

end Sys2Proof
end

