-- ==== Sys2Proof/Config.lean ====
section
/-! DEFINITION. The parameters of the specification (00_scope.md R7) as plain data of the launch state, and the free
values. A parameter that R7 calls OPEN is a field of `Params`, or the list of rules that stands for the function
`Translate`; since they are fields of the state, a statement about every state holds for every value of them
(log 2, 4). -/

namespace Sys2Proof

/-- `LINEAR_ADDRESS_BITS`, the width "canonical" is judged against (20_memory.md R65). -/
inductive AddressBits where
  | b48
  | b57
deriving DecidableEq, Repr

/-- The access handed to `Translate` (20_memory.md R62, R68 to R71). -/
inductive Access where
  /-- A stack read at privilege `cpl` (R62). -/
  | dataRead (cpl : BitVec 2)
  /-- A descriptor-table or TSS read, made with supervisor privilege (R70; 42_iret_protected.md R163). -/
  | supervisorRead
  /-- The write of a descriptor's accessed or busy bit (R70; 42_iret_protected.md R163). -/
  | supervisorWrite
  /-- A shadow-stack load, user when the instruction runs at CPL 3 (R68). -/
  | shadowRead (user : Bool)
  /-- The store of the token compare-exchange (R69). -/
  | shadowWrite (user : Bool)
  /-- The fetch of an instruction byte (30_encoding.md R90). -/
  | fetch (cpl : BitVec 2)
deriving DecidableEq, Repr

/-- What `Translate` answers for the linear addresses of a rule: the physical address of the first of them, or
a page fault with its fault code (20_memory.md R71). The spec gives physical addresses no width: 64 bits are the model's
(DESIGN CHOICE, log 33). It leaves the fault code opaque (R71, 60_exceptions.md R281): 32 bits are the model's (DESIGN
CHOICE, log 34). -/
inductive TransResult where
  | physical (base : Word)
  | pageFault (code : BitVec 32)
deriving DecidableEq, Repr

/-- One piece of `Translate`: the linear addresses `first` to `last`, for one kind of access. -/
structure TransRule where
  access : Access
  first : Word
  last : Word
  result : TransResult
deriving DecidableEq, Repr

/-- The OPEN parameters of 00_scope.md R7 that are plain switches. -/
structure Params where
  /-- `LINEAR_ADDRESS_BITS`. -/
  addressBits : AddressBits
  /-- `CET_SUPPORTED`. -/
  cetSupported : Bool
  /-- `IA32E_SUPPORTED`. -/
  ia32eSupported : Bool
  /-- `DESC_ACCESSED_WRITEBACK`. -/
  descAccessedWriteback : Bool
  /-- `NMI_UNBLOCK_ON_UD`. -/
  nmiUnblockOnUd : Bool
deriving DecidableEq, Repr

/-- FREE VALUE (10_state.md R21, 93_implementation_defined.md U7): `RSP[63:32]` after a 32-bit stack-pointer
write in a legacy mode. The argument is the counter `State.freeIdx` (log 7). -/
opaque Config.freeRspHigh : Nat → BitVec 32

/-- The segment registers that a return can leave invalid (44_iret_privilege_returns.md R217, R218). -/
inductive SegName where
  | ss
  | es
  | fs
  | gs
  | ds
deriving DecidableEq, Repr

/-- FREE VALUE (R217, U11; R218, U15): the base of a segment register that the return leaves invalid. The Nat is
the counter `State.freeIdx` (log 8, 9). -/
opaque Config.freeSegBase : Nat → SegName → Word

/-- FREE VALUE (R217, U11; R218, U15): the limit of such a register (log 8, 9). -/
opaque Config.freeSegLimit : Nat → SegName → BitVec 32

/-- FREE VALUE (R217, U11; R218, U15): the attributes of such a register: bits 1:0 dpl, then code, conforming,
writable, expand-down, L, DB, present (log 8, 9). -/
opaque Config.freeSegAttributes : Nat → SegName → BitVec 9

end Sys2Proof
end

