-- ==== Sys2Proof/Machine/State.lean ====
section
/-! DEFINITION. The state of the machine (10_state.md), as plain data; the outcomes of a step; the state after
reset. -/

namespace Sys2Proof.Machine

/-- `EFLAGS`: a record of the seventeen named fields and nothing else (10_state.md R23, R24). -/
structure Eflags where
  CF : Bool
  PF : Bool
  AF : Bool
  ZF : Bool
  SF : Bool
  TF : Bool
  IF : Bool
  DF : Bool
  OF : Bool
  IOPL : BitVec 2
  NT : Bool
  RF : Bool
  VM : Bool
  AC : Bool
  VIF : Bool
  VIP : Bool
  ID : Bool
deriving DecidableEq, Repr

/-- A segment register: the visible selector and the hidden part (10_state.md R34). -/
structure SegReg where
  sel : Sel
  /-- False after "Segment register invalid". -/
  valid : Bool
  base : Word
  /-- Byte-granular, already scaled. -/
  limit : BitVec 32
  dpl : BitVec 2
  code : Bool
  conforming : Bool
  writable : Bool
  expandDown : Bool
  L : Bool
  DB : Bool
  present : Bool
deriving DecidableEq, Repr

/-- `RSP` as its two halves: `ESP` is bits 31:0 (10_state.md R20). They are stored apart because a legacy mode
leaves the upper half unspecified and never reads it (R21). -/
structure StackReg where
  hi : BitVec 32
  lo : BitVec 32
deriving DecidableEq, Repr

/-- `GDTR` (10_state.md R37). -/
structure Gdtr where
  base : Word
  limit : BitVec 16
deriving DecidableEq, Repr

/-- `LDTR` (10_state.md R37). R37 gives its base and limit no width: 64 and 32 bits are the model's (log 32). -/
structure Ldtr where
  sel : Sel
  valid : Bool
  base : Word
  limit : BitVec 32
deriving DecidableEq, Repr

/-- `TR`, which locates the current TSS (10_state.md R38). R38 gives its base and limit no width: 64 and 32 bits are
the model's (log 32). -/
structure TaskReg where
  sel : Sel
  base : Word
  limit : BitVec 32
deriving DecidableEq, Repr

/-- Memory: the listed physical byte addresses, strictly rising, with their bytes; an unlisted byte reads 0
(20_memory.md R60, R42; log 3). -/
abbrev Memory := List Host.Cell

/-- The exceptions the instruction raises and the error code of each (60_exceptions.md R280, R281); `none` is an
exception without error code. -/
inductive Exception where
  /-- `#UD`: LOCK (30_encoding.md R96). -/
  | ud
  /-- `#NP(selector)`: the return code segment is not present (44 R210 row 8). -/
  | np (code : BitVec 32)
  /-- `#SS(0)`; without code in real-address mode (20 R62, 41 R143, 44 R212 row 6). -/
  | ss (code : Option (BitVec 32))
  /-- `#GP(0)`, `#GP(selector)`; without code in real-address mode (41 R143). -/
  | gp (code : Option (BitVec 32))
  /-- `#PF(fault-code)`, from `Translate` (20 R71). The code is opaque (R281): its 32 bits, and that the exception
carries the faulting linear address with it, are the model's (DESIGN CHOICE, log 34). -/
  | pf (code : BitVec 32) (address : Word)
  /-- `#AC(0)`: an unaligned stack read (20 R66). -/
  | ac
  /-- `#CP(FAR-RET/IRET)` (45 R251). -/
  | cp
  /-- Any other exception of the task switch: "whatever `SwitchTasks` raises" (42 R163), its vector and error code
  from the parameter; no check of the instruction raises it (log 5). -/
  | taskSwitch (vector : BitVec 8) (code : Option (BitVec 32))
deriving DecidableEq, Repr

/-- What the hardware task switch loads for the incoming task and stores for the outgoing one
(42_iret_protected.md R163): the whole of what `SwitchTasks` may change (log 5, 23). The other general registers are not
among it: no path writes one (10_state.md R20, R44; log 26). -/
structure TaskImage where
  rsp : StackReg
  rip : Word
  eflags : Eflags
  cs : SegReg
  ss : SegReg
  ds : SegReg
  es : SegReg
  fs : SegReg
  gs : SegReg
  cpl : BitVec 2
  ldtr : Ldtr
  tr : TaskReg
  cr3 : Word
  /-- `SSP` of the new task, where shadow stacks are enabled at the old or the new level (10_state.md R39). -/
  ssp : Word
  /-- `Translate` after the switch, which may load CR3 (20_memory.md R76). -/
  translation : List TransRule
  /-- The bytes the switch stores, the outgoing TSS among them, at physical addresses. -/
  stores : List (Word × Byte)
deriving DecidableEq, Repr

/-- What `SwitchTasks` answers: the new task, or an exception of the switch, of any vector (42_iret_protected.md
R163). The spec leaves open which ones a switch raises (91 N1, 93 U10), and so does the model (log 5). -/
inductive SwitchResult where
  | switched (image : TaskImage)
  | raised (x : Exception)
deriving DecidableEq, Repr

/-- One value of the parameter `SwitchTasks`: its answer for a back link and the return address it saves
(00_scope.md R7, 42_iret_protected.md R163; log 5). -/
structure TaskRule where
  link : Sel
  returnIp : Word
  result : SwitchResult
deriving DecidableEq, Repr

/-- The state of the machine (10_state.md). -/
structure State where
  /-- The general registers other than the stack pointer, which no path changes (R20, R44; log 26). -/
  gprs : Vector Word 15
  /-- `RSP`; `ESP` and `SP` are its low parts (R20). -/
  rsp : StackReg
  /-- `RIP`, the offset of the IRET in its code segment (R22). -/
  rip : Word
  /-- `EFLAGS` (R23, R24). -/
  eflags : Eflags
  /-- `CR0.PE` (R26). -/
  cr0PE : Bool
  /-- `CR0.AM` (R32). -/
  cr0AM : Bool
  /-- `CR3`, which only `SwitchTasks` may load (R44). R44 gives it no width: 64 bits are the model's (log 32). -/
  cr3 : Word
  /-- `CR4.CET` (R28). -/
  cr4CET : Bool
  /-- `CR4.VME`, a precondition of virtual-8086 mode (41 R144, decision D29). -/
  cr4VME : Bool
  /-- `IA32_EFER.LMA` (R27). -/
  eferLMA : Bool
  /-- `IA32_U_CET` (R29). R29 gives it no width: 64 bits are the model's (log 32). -/
  uCet : Word
  /-- `IA32_S_CET` (R30). R30 gives it no width: 64 bits are the model's (log 32). -/
  sCet : Word
  /-- `IA32_PL3_SSP` (R31). -/
  pl3Ssp : Word
  cs : SegReg
  ss : SegReg
  ds : SegReg
  es : SegReg
  fs : SegReg
  gs : SegReg
  /-- `CPL` (R36). -/
  cpl : BitVec 2
  gdtr : Gdtr
  ldtr : Ldtr
  tr : TaskReg
  /-- `SSP`, the shadow-stack pointer (R39). -/
  ssp : Word
  /-- `NMI_blocked` (R40). -/
  nmiBlocked : Bool
  /-- VMX non-root operation, a precondition (60 R294, decision D29). -/
  vmxNonRoot : Bool
  /-- Memory (R42). -/
  mem : Memory
  /-- The OPEN switches of 00_scope.md R7. -/
  params : Params
  /-- The parameter `Translate`: the first rule that covers an address and access decides; else the identity
  (20 R71, decision D25; log 4). -/
  translation : List TransRule
  /-- The parameter `SwitchTasks`; no rule for a switch means it is absent (00 R7; log 5). -/
  tasks : List TaskRule
  /-- The MODEL's own counter: the index of the next free value (log 24). -/
  freeIdx : Nat
deriving DecidableEq, Repr

/-- How a step stops in a fault. -/
inductive Fault where
  /-- `raise #XX(e)` (60_exceptions.md R288, R295): the exception and the state it leaves. Raised by every check
  of files 20 and 40 to 45. Safe: delivery is not modelled, so nothing is claimed of what follows. -/
  | exception (x : Exception) (left : State)
deriving DecidableEq, Repr

/-- How a step is refused: the model gives the situation no meaning. Every refusal is safe (nothing can be
proved of a run that goes on). -/
inductive Refusal where
  /-- An arm of `exec` that has no meaning yet. -/
  | notModelled (mnemonic : String)
  /-- Raised by `step`: the bytes at CS:RIP are no instruction in scope (70 R335; 30 R95, R97). -/
  | decode (e : DecodeRefusal)
  /-- Raised by every instruction in VMX non-root operation (60 R294, U13). -/
  | vmxNonRoot
  /-- Raised in virtual-8086 mode with CR4.VME = 1, by an execution without LOCK (41 R144, U14; log 21). -/
  | virtual8086Extensions
  /-- Raised by IRETQ executed outside 64-bit mode, where it does not exist (30 R95, U1). -/
  | iretqOutside64
  /-- Raised by a task return for which `SwitchTasks` is not given (00 R6, 42 R163, U2). -/
  | switchTasksAbsent
  /-- Raised when the token access page-faults, which S0 denies (20 R69, U3). -/
  | tokenPageFault
  /-- Raised when the previous SSP is used without having been assigned, unreachable (45 R254, U6). -/
  | prevSspUnassigned
deriving DecidableEq, Repr

/-- The outcome of a step. -/
abbrev Out := Host.Outcome State Fault Refusal

/-- The seventeen fields at 0, the family's EFLAGS after reset (log 1). -/
def Eflags.zero : Eflags where
  CF := false
  PF := false
  AF := false
  ZF := false
  SF := false
  TF := false
  IF := false
  DF := false
  OF := false
  IOPL := 0#2
  NT := false
  RF := false
  VM := false
  AC := false
  VIF := false
  VIP := false
  ID := false

/-- A segment register as the family has it after reset (log 1). -/
def SegReg.atReset (sel : Sel) (base : Word) : SegReg where
  sel := sel
  valid := true
  base := base
  limit := 0xFFFF#32
  dpl := 0#2
  code := false
  conforming := false
  writable := true
  expandDown := false
  L := false
  DB := false
  present := true

/-- The machine right after reset. The spec gives no reset value (10_state.md R43, 70_reset_and_hazards.md R330):
the registers have the family's (PRESUMED, log 1), the parameters the model's (DESIGN CHOICE, log 2), and memory
lists nothing (log 3). -/
def State.reset : State where
  gprs := Vector.replicate 15 0#64
  rsp := ⟨0#32, 0#32⟩
  rip := 0xFFF0#64
  eflags := Eflags.zero
  cr0PE := false
  cr0AM := false
  cr3 := 0#64
  cr4CET := false
  cr4VME := false
  eferLMA := false
  uCet := 0#64
  sCet := 0#64
  pl3Ssp := 0#64
  cs := SegReg.atReset 0xF000#16 0xFFFF0000#64
  ss := SegReg.atReset 0#16 0#64
  ds := SegReg.atReset 0#16 0#64
  es := SegReg.atReset 0#16 0#64
  fs := SegReg.atReset 0#16 0#64
  gs := SegReg.atReset 0#16 0#64
  cpl := 0#2
  gdtr := ⟨0#64, 0xFFFF#16⟩
  ldtr := ⟨0#16, true, 0#64, 0xFFFF#32⟩
  tr := ⟨0#16, 0#64, 0xFFFF#32⟩
  ssp := 0#64
  nmiBlocked := false
  vmxNonRoot := false
  mem := []
  params := ⟨.b48, true, true, true, false⟩
  translation := []
  tasks := []
  freeIdx := 0

end Sys2Proof.Machine
end

