-- ==== Sys2Proof/Machine/Ops.lean ====
section
/-! DEFINITION. The shared operations: stopping and finishing an execution, the mode, memory, translation, the
stack, the stack pointer (10_state.md, 20_memory.md, 40_iret_common.md). -/

namespace Sys2Proof.Machine

/-! ### Raising an exception, refusing, completing -/

/-- Why a check does not pass. -/
inductive Stop where
  | exc (x : Exception)
  | refuse (r : Refusal)
deriving DecidableEq, Repr

/-- A check or a read of the instruction: it changes no state (40_iret_common.md R115). -/
abbrev Check (α : Type) := Except Stop α

/-- Raise the exception unless the condition holds. -/
def require (b : Bool) (x : Exception) : Check Unit :=
  if b then .ok () else .error (.exc x)

/-- An exception inside the token access, "past all faulting points", is outside the spec: refuse (20_memory.md R69,
U3). -/
def refusing {α : Type} (r : Refusal) (c : Check α) : Check α :=
  match c with
  | .ok v => .ok v
  | .error (.exc _) => .error (.refuse r)
  | .error (.refuse q) => .error (.refuse q)

/-- The vector of an exception (60_exceptions.md R280). -/
def Exception.vector : Exception → Nat
  | .ud => 6
  | .np _ => 11
  | .ss _ => 12
  | .gp _ => 13
  | .pf _ _ => 14
  | .ac => 17
  | .cp => 21
  | .taskSwitch v _ => v.toNat

/-- The error code of an exception (60_exceptions.md R280, R281): 0 for `#AC`, FAR-RET/IRET = 2 for `#CP`. -/
def Exception.errorCode : Exception → Option (BitVec 32)
  | .ud => none
  | .np e => some e
  | .ss e => e
  | .gp e => e
  | .pf e _ => some e
  | .ac => some 0#32
  | .cp => some 2#32
  | .taskSwitch _ e => e

/-- TAKING AN EXCEPTION, as far as the spec describes it: the step ends with the exception and the state it
leaves; nothing is saved and the pc goes nowhere, since delivery is out of scope (60_exceptions.md R295, R5). -/
def raise (x : Exception) (left : State) : Out :=
  .fault (.exception x left)

/-- "Execution of the IRET instruction unblocks NMIs" (40_iret_common.md R117). -/
def unblockNmi (s : State) : State :=
  { s with nmiBlocked := false }

/-- The end of a Commit: NMIs are unblocked (R117) and the counter of free values moves on (log 24). -/
def retire (s : State) : State :=
  { s with nmiBlocked := false, freeIdx := s.freeIdx + 1 }

/-- From a path's checks and Commit to the outcome: a raise leaves the state as before the instruction with NMIs
unblocked (40_iret_common.md R115, R117; 60_exceptions.md R288). -/
def finish (s : State) (c : Check State) : Out :=
  match c with
  | .ok t => .next (retire t)
  | .error (.exc x) => raise x (unblockNmi s)
  | .error (.refuse r) => .refused r

/-! ### Mode and dispatch -/

/-- The five modes (00_scope.md R13). -/
inductive Mode where
  | real
  | v8086
  | protectedMode
  | compat
  | long64
deriving DecidableEq, Repr

/-- The current mode is derived from state (10_state.md R41). -/
def modeOf (s : State) : Mode :=
  if !s.cr0PE then .real
  else if !s.eferLMA && s.eflags.VM then .v8086
  else if !s.eferLMA then .protectedMode
  else if s.cs.L then .long64
  else .compat

/-- The block the dispatch enters. -/
inductive Path where
  | realAddress
  | fromV86
  | protectedMode
  | ia32e
deriving DecidableEq, Repr

/-- S0's first block, tests in its order (40_iret_common.md R114). -/
def dispatch (s : State) : Path :=
  if !s.cr0PE then .realAddress
  else if !s.eferLMA then (if s.eflags.VM then .fromV86 else .protectedMode)
  else .ia32e

/-- The instruction began in IA-32e mode: the dispatch enters IA-32e-MODE (R13, R114). -/
def inIa32e (s : State) : Bool :=
  s.cr0PE && s.eferLMA

/-- What decoding reads of the state (30_encoding.md R101). -/
def decodeCtx (s : State) : DecodeCtx :=
  ⟨modeOf s == .long64, s.cs.DB⟩

/-! ### Bit fields and widths -/

/-- The low 16, 32 or 64 bits, zero-extended. -/
def lowPart : OpSize → Word → Word
  | .w16, v => (v.setWidth 16).setWidth 64
  | .w32, v => (v.setWidth 32).setWidth 64
  | .w64, v => v

/-- `Canonical(a)`: `a = sext_64(a[LINEAR_ADDRESS_BITS-1:0])` (20_memory.md R65). -/
def canonicalIn (bits : AddressBits) (a : Word) : Bool :=
  match bits with
  | .b48 => (a.setWidth 48).signExtend 64 == a
  | .b57 => (a.setWidth 57).signExtend 64 == a

/-- `Canonical` in the current paging mode (10_state.md R33, 20_memory.md R65). -/
def canonical (s : State) (a : Word) : Bool :=
  canonicalIn s.params.addressBits a

/-! ### Memory -/

/-- The byte at a physical address; an unlisted byte reads 0 (log 3). -/
def Memory.read : Memory → Nat → Byte
  | [], _ => 0#8
  | (k, b) :: m, a => if k = a then b else Memory.read m a

/-- Store a byte, keeping the addresses rising and listing no zero byte (log 3). -/
def Memory.write : Memory → Nat → Byte → Memory
  | [], a, v => if v = 0#8 then [] else [(a, v)]
  | (k, b) :: m, a, v =>
    if a < k then (if v = 0#8 then (k, b) :: m else (a, v) :: (k, b) :: m)
    else if a = k then (if v = 0#8 then m else (a, v) :: m)
    else (k, b) :: Memory.write m a v

/-- The canonical form from an address up: addresses strictly rising and below 2^64, no zero byte. -/
def Memory.wfFrom : Nat → Memory → Bool
  | _, [] => true
  | lo, (k, b) :: m => decide (lo ≤ k) && decide (k < 2 ^ 64) && (b != 0#8) && Memory.wfFrom (k + 1) m

/-- The canonical form of memory holds. -/
def Memory.wf (m : Memory) : Bool :=
  Memory.wfFrom 0 m

/-! ### Linear addresses, `Translate`, reads and writes -/

/-- Linear addresses are 64 bits wide in IA-32e mode and 32 bits wide outside it (20_memory.md R60; log 11). -/
def linearAddr (s : State) (a : Word) : Word :=
  if inIa32e s then a else lowPart .w32 a

/-- The answer of the first rule that covers the access; the identity where none does (R71; log 4). A physical address
has 64 bits, so base plus offset is taken modulo 2^64 (DESIGN CHOICE, log 33). -/
def lookupTranslation (acc : Access) (la : Word) : List TransRule → Check Word
  | [] => .ok la
  | r :: rs =>
    if r.access = acc ∧ r.first ≤ la ∧ la ≤ r.last then
      match r.result with
      | .physical base => .ok (base + (la - r.first))
      | .pageFault code => .error (.exc (.pf code la))
    else lookupTranslation acc la rs

/-- `Translate(la, access)` (20_memory.md R71). Real-address mode raises no page fault (60_exceptions.md R282):
there the physical address is the linear one (log 13). -/
def translate (s : State) (acc : Access) (a : Word) : Check Word :=
  if s.cr0PE then lookupTranslation acc (linearAddr s a) s.translation
  else .ok (linearAddr s a)

/-- `MemReadV`: one byte through `Translate`. -/
def loadByte (s : State) (acc : Access) (a : Word) : Check Byte := do
  let pa ← translate s acc a
  .ok (s.mem.read pa.toNat)

/-- `MemReadV(la, n)`: `n` bytes at consecutive linear addresses, little-endian, zero-extended to 64 bits
(20_memory.md R61, R62, R67). DESIGN CHOICE (log 35): byte `la + i` is in 64-bit linear addresses in IA-32e mode, so that an
item of a compatibility-mode stack that starts just below linear FFFFFFFFH goes on at 100000000H, not at 0.
DESIGN CHOICE (log 38): past linear FFFFFFFFFFFFFFFFH a descriptor's bytes go on at 0, of which R61 and R70 say nothing. -/
def loadV (s : State) (acc : Access) : Word → Nat → Check Word
  | _, 0 => .ok 0#64
  | a, n + 1 => do
    let b ← loadByte s acc a
    let v ← loadV s acc (a + 1#64) n
    .ok ((v <<< 8) ||| b.setWidth 64)

/-- One byte of memory replaced, through `Translate`. DESIGN CHOICE (log 37): the read of it asks `Translate` for the write
alone. -/
def modifyByte (s : State) (acc : Access) (a : Word) (f : Byte → Byte) : Check State := do
  let pa ← translate s acc a
  .ok { s with mem := s.mem.write pa.toNat (f (s.mem.read pa.toNat)) }

/-- `MemWriteV(la, n, v)`: the low `n` bytes of `v`, little-endian (20_memory.md R61). -/
def storeV (s : State) (acc : Access) : Word → Nat → Word → Check State
  | _, 0, _ => .ok s
  | a, n + 1, v => do
    let t ← modifyByte s acc a (fun _ => v.setWidth 8)
    storeV t acc (a + 1#64) n (v >>> 8)

/-! ### The stack -/

/-- The stack address size, fixed at the start of the instruction from the old SS (20_memory.md R63). -/
def stackAddrSize (s : State) : OpSize :=
  if modeOf s = .long64 then .w64
  else if s.ss.DB then .w32
  else .w16

/-- `WithinLimit(seg, off, n)` (20_memory.md R64). -/
def withinLimit (seg : SegReg) (off n : Nat) : Bool :=
  if !seg.code && seg.expandDown then
    decide (seg.limit.toNat < off) && decide (off + n - 1 ≤ if seg.DB then 0xFFFFFFFF else 0xFFFF)
  else decide (off + n - 1 ≤ seg.limit.toNat)

/-- The access lies in the stack segment; an access whose last byte wraps past the top of the offset space fails
(20_memory.md R64, decision D6; log 12). -/
def stackWithin (s : State) (off n : Nat) : Bool :=
  withinLimit s.ss off n && decide (off + n ≤ 2 ^ (8 * (stackAddrSize s).bytes))

/-- The first test of `StackRead`: canonical in 64-bit mode, within the stack limit elsewhere (20_memory.md R62). -/
def stackInBounds (s : State) (off : Word) (n : Nat) : Bool :=
  if modeOf s = .long64 then canonical s off && canonical s (off + BitVec.ofNat 64 (n - 1))
  else stackWithin s off.toNat n

/-- `#SS` of a pop: without error code in real-address mode (20_memory.md R62, 41 R143). -/
def stackFault (s : State) : Exception :=
  if s.cr0PE then .ss (some 0#32) else .ss none

/-- The linear address of a stack offset: the base of SS is 0 in 64-bit mode (20_memory.md R62). -/
def stackLinear (s : State) (off : Word) : Word :=
  if modeOf s = .long64 then off else lowPart .w32 (s.ss.base + off)

/-- `AlignmentCheckApplies` (20_memory.md R66); `#AC` is not raised in real-address mode (60 R282; log 13). -/
def alignmentCheckApplies (s : State) : Bool :=
  s.cr0PE && s.cpl == 3#2 && s.cr0AM && s.eflags.AC

/-- The linear address is a multiple of the access size, or alignment is not checked (20_memory.md R66). -/
def stackAligned (s : State) (off : Word) (n : Nat) : Bool :=
  !alignmentCheckApplies s || (stackLinear s off).toNat % n == 0

/-- `StackRead(off, n)`: `#SS`, then `#AC`, then `#PF` (20_memory.md R62, 60_exceptions.md R287). Only the first byte's
linear address is reduced modulo 2^32 (R62); the rest follow it (DESIGN CHOICE in compatibility mode, log 35). -/
def stackRead (s : State) (off : Word) (n : Nat) : Check Word := do
  require (stackInBounds s off n) (stackFault s)
  require (stackAligned s off n) .ac
  loadV s (.dataRead s.cpl) (stackLinear s off) n

/-- `x[RSP]`, the 64-bit register (10_state.md R20). -/
def StackReg.word (r : StackReg) : Word := r.hi ++ r.lo

/-- A 64-bit write of the stack pointer (10_state.md R21). -/
def StackReg.ofWord (v : Word) : StackReg := ⟨v.extractLsb' 32 32, v.setWidth 32⟩

/-- `sp0 = x[RSP][StackAddrSize-1:0]` (20_memory.md R63). -/
def stackPointer (s : State) : Word :=
  match stackAddrSize s with
  | .w16 => (s.rsp.lo.setWidth 16).setWidth 64
  | .w32 => s.rsp.lo.setWidth 64
  | .w64 => s.rsp.word

/-- The stack offset of the k-th item of `n` bytes, from 0: `(sp0 + k*n) mod 2^StackAddrSize` (20_memory.md
R63). -/
def slotOffset (s : State) (n : OpSize) (k : Nat) : Word :=
  lowPart (stackAddrSize s) (stackPointer s + BitVec.ofNat 64 (k * n.bytes))

/-- The k-th `Pop_n()` of the execution, from 0, zero-extended to 64 bits: all pops read the stack in use at the
start, at consecutive offsets (40_iret_common.md R116, R120, R121). -/
def popAt (s : State) (n : OpSize) (k : Nat) : Check Word :=
  stackRead s (slotOffset s n k) n.bytes

/-! ### The stack pointer -/

/-- `x[ESP] <- v`: zero-extended in IA-32e mode; in a legacy mode the upper half is a free value (10_state.md
R21, U7; log 7). -/
def writeEsp (s : State) (v : BitVec 32) : StackReg :=
  ⟨if inIa32e s then 0#32 else Config.freeRspHigh s.freeIdx, v⟩

/-- `StackPointerAdvance(tsp)`, the new stack pointer (41_iret_real_v86.md R149). -/
def stackPointerAdvance (s : State) (tsp : Word) : StackReg :=
  match stackAddrSize s with
  | .w16 => ⟨s.rsp.hi, s.rsp.lo.extractLsb' 16 16 ++ tsp.setWidth 16⟩
  | .w32 => writeEsp s (tsp.setWidth 32)
  | .w64 => StackReg.ofWord tsp

/-- The new stack pointer after a popped one is loaded: `x[RSP]` for operand size 64, else `x[ESP]`
(44_iret_privilege_returns.md R217, 10_state.md R21). -/
def loadStackPointer (s : State) (n : OpSize) (v : Word) : StackReg :=
  match n with
  | .w64 => StackReg.ofWord v
  | .w32 | .w16 => writeEsp s (v.setWidth 32)

end Sys2Proof.Machine
end

