-- ==== Sys2Proof/Machine/Flags.lean ====
section
/-! DEFINITION. The flags image and the flag updates of every path (10_state.md R23, R25; 40_iret_common.md R121,
R122). -/

namespace Sys2Proof.Machine

/-- The fields of a popped image, each at its bit position; reserved bits are ignored (10_state.md R23, R24;
40_iret_common.md R121). -/
def Eflags.ofImage (v : Word) : Eflags where
  CF := v.getLsbD 0
  PF := v.getLsbD 2
  AF := v.getLsbD 4
  ZF := v.getLsbD 6
  SF := v.getLsbD 7
  TF := v.getLsbD 8
  IF := v.getLsbD 9
  DF := v.getLsbD 10
  OF := v.getLsbD 11
  IOPL := v.extractLsb' 12 2
  NT := v.getLsbD 14
  RF := v.getLsbD 16
  VM := v.getLsbD 17
  AC := v.getLsbD 18
  VIF := v.getLsbD 19
  VIP := v.getLsbD 20
  ID := v.getLsbD 21

/-- `G_ALWAYS` = CF PF AF ZF SF TF DF OF NT from the image (10_state.md R25). -/
def Eflags.putAlways (f img : Eflags) : Eflags :=
  { f with
    CF := img.CF, PF := img.PF, AF := img.AF, ZF := img.ZF, SF := img.SF, TF := img.TF, DF := img.DF,
    OF := img.OF, NT := img.NT }

/-- `G_HIGH` = RF AC ID from the image (10_state.md R25). -/
def Eflags.putHigh (f img : Eflags) : Eflags :=
  { f with RF := img.RF, AC := img.AC, ID := img.ID }

/-- `IF` from the image. -/
def Eflags.putIF (f img : Eflags) : Eflags :=
  { f with IF := img.IF }

/-- `IOPL` from the image. -/
def Eflags.putIOPL (f img : Eflags) : Eflags :=
  { f with IOPL := img.IOPL }

/-- `VIF` and `VIP` from the image. -/
def Eflags.putVirtual (f img : Eflags) : Eflags :=
  { f with VIF := img.VIF, VIP := img.VIP }

/-- Real-address mode: `G_LOW` for operand size 16, `G_REAL` for 32; VM, VIF, VIP kept (41 R140, R141). -/
def writeFlagsReal (f img : Eflags) (n : OpSize) : Eflags :=
  let low := ((f.putAlways img).putIF img).putIOPL img
  if n.wideImage then low.putHigh img else low

/-- Return within virtual-8086 mode: as real-address mode without IOPL (41 R145, R146). -/
def writeFlagsV86 (f img : Eflags) (n : OpSize) : Eflags :=
  let low := (f.putAlways img).putIF img
  if n.wideImage then low.putHigh img else low

/-- `WriteFlagsProt(img, opsize, cpl0, iopl0)`; the IOPL tested is the old one (40_iret_common.md R122). -/
def writeFlagsProt (f img : Eflags) (n : OpSize) (cpl : BitVec 2) : Eflags :=
  let f1 := f.putAlways img
  let f2 := if n.wideImage then f1.putHigh img else f1
  let f3 := if cpl ≤ f.IOPL then f2.putIF img else f2
  if cpl = 0#2 then
    let f4 := f3.putIOPL img
    if n.wideImage then f4.putVirtual img else f4
  else f3

end Sys2Proof.Machine
end

