-- ==== Sys2Proof/Machine/Operands.lean ====
section
/-! DEFINITION. The implicit operands: the items of a frame, the fields of a selector and of a descriptor, and how
a descriptor fills a segment register (10_state.md R35, R37; 40_iret_common.md R119; 44 R216). -/

namespace Sys2Proof.Machine

/-! ### Items of the frame -/

/-- A popped selector: the low 16 bits of the item; the rest is discarded unchecked (40_iret_common.md R119). -/
def popSel (s : State) (n : OpSize) (k : Nat) : Check Sel := do
  let v ← popAt s n k
  .ok (v.setWidth 16)

/-- The first three items of every frame: return instruction pointer, CS selector, flags image (42 R173, 43
R197). -/
structure Frame where
  ip : Word
  cs : Sel
  flags : Word
deriving DecidableEq, Repr

/-- The first three pops, in their order (41 R140, 42 R161, 43 R191). -/
def popFrame (s : State) (n : OpSize) : Check Frame := do
  let ip ← popAt s n 0
  let cs ← popSel s n 1
  let flags ← popAt s n 2
  .ok ⟨ip, cs, flags⟩

/-! ### Selectors (10_state.md R35) -/

/-- `RPL = sel[1:0]`. -/
def selRpl (sel : Sel) : BitVec 2 := sel.extractLsb' 0 2

/-- The local/global bit `TI = sel[2]`: 1 is local. -/
def selTI (sel : Sel) : Bool := sel.getLsbD 2

/-- `index = sel[15:3]`. -/
def selIndex (sel : Sel) : Nat := (sel.extractLsb' 3 13).toNat

/-- A NULL selector: `sel[15:2] = 0`. -/
def selNull (sel : Sel) : Bool := sel.extractLsb' 2 14 == 0#14

/-- The error code built from a selector, `sel AND FFFCH` (60_exceptions.md R281). -/
def selectorCode (sel : Sel) : BitVec 32 := (sel &&& 0xFFFC#16).setWidth 32

/-! ### Descriptors (10_state.md R37) -/

/-- Bit 44: a code or data segment. -/
def descS (d : Word) : Bool := d.getLsbD 44

/-- "Code segment": bits 44 and 43. -/
def descIsCode (d : Word) : Bool := d.getLsbD 44 && d.getLsbD 43

/-- Bit 42 of a code segment's descriptor. -/
def descConforming (d : Word) : Bool := d.getLsbD 42

/-- "Writable data segment": bit 44 set, bit 43 clear, bit 41 set. -/
def descIsWritableData (d : Word) : Bool := d.getLsbD 44 && !d.getLsbD 43 && d.getLsbD 41

/-- `DPL`, bits 46:45. -/
def descDpl (d : Word) : BitVec 2 := d.extractLsb' 45 2

/-- Bit 47. -/
def descPresent (d : Word) : Bool := d.getLsbD 47

/-- The L bit, 53. -/
def descL (d : Word) : Bool := d.getLsbD 53

/-- The D/B bit, 54. -/
def descDB (d : Word) : Bool := d.getLsbD 54

/-- The accessed bit, 40. -/
def descAccessed (d : Word) : Bool := d.getLsbD 40

/-- The base, `d[63:56] : d[39:16]`. -/
def descBase (d : Word) : BitVec 32 := d.extractLsb' 56 8 ++ d.extractLsb' 16 24

/-- The 20-bit limit, `d[51:48] : d[15:0]`. -/
def descLimit20 (d : Word) : BitVec 20 := d.extractLsb' 48 4 ++ d.extractLsb' 0 16

/-- The byte limit: scaled by 4096 when the G bit, 55, is set. -/
def descLimit (d : Word) : BitVec 32 :=
  if d.getLsbD 55 then descLimit20 d ++ 0xFFF#12 else (descLimit20 d).setWidth 32

/-- A TSS descriptor: bit 44 clear, type 1001 or 1011 (32-bit), 0001 or 0011 (16-bit) (42 R164). -/
def descIsTss (d : Word) : Bool :=
  !d.getLsbD 44 && [0b1001#4, 0b1011#4, 0b0001#4, 0b0011#4].contains (d.extractLsb' 40 4)

/-- "Marked busy", bit 41 of a TSS descriptor (42 R164). -/
def descBusy (d : Word) : Bool := d.getLsbD 41

/-- `SegFromDescriptor(sel, d)` (44 R216). -/
def segFromDescriptor (sel : Sel) (d : Word) : SegReg where
  sel := sel
  valid := true
  base := (descBase d).setWidth 64
  limit := descLimit d
  dpl := descDpl d
  code := d.getLsbD 43
  conforming := d.getLsbD 43 && d.getLsbD 42
  writable := !d.getLsbD 43 && d.getLsbD 41
  expandDown := !d.getLsbD 43 && d.getLsbD 42
  L := descL d
  DB := descDB d
  present := descPresent d

/-! ### Other loads of a segment register -/

/-- `zext(sel) << 4`. -/
def paragraphBase (sel : Sel) : Word := sel.setWidth 64 <<< 4

/-- `RealSegLoad(old, sel)`: limit and attributes unchanged (41 R142). -/
def realSegLoad (old : SegReg) (sel : Sel) : SegReg :=
  { old with sel := sel, base := paragraphBase sel, valid := true }

/-- `V86SegLoad(sel)` (41 R147). -/
def v86SegLoad (sel : Sel) : SegReg where
  sel := sel
  valid := true
  base := paragraphBase sel
  limit := 0xFFFF#32
  dpl := 3#2
  code := false
  conforming := false
  writable := true
  expandDown := false
  L := false
  DB := false
  present := true

/-- A segment register left invalid: the selector is given, the other hidden fields are free values (U11, U15). -/
def invalidSeg (idx : Nat) (name : SegName) (sel : Sel) : SegReg :=
  let a := Config.freeSegAttributes idx name
  { sel := sel
    valid := false
    base := Config.freeSegBase idx name
    limit := Config.freeSegLimit idx name
    dpl := a.extractLsb' 0 2
    code := a.getLsbD 2
    conforming := a.getLsbD 3
    writable := a.getLsbD 4
    expandDown := a.getLsbD 5
    L := a.getLsbD 6
    DB := a.getLsbD 7
    present := a.getLsbD 8 }

/-- `NullSeg(sel)`: the selector is kept, the register is invalid (44 R217, U11; log 8). -/
def nullSeg (idx : Nat) (sel : Sel) : SegReg :=
  invalidSeg idx .ss sel

/-- `NullifyIfInaccessible(R, newCPL)`: selector 0 and invalid; the other hidden fields are free values (44 R218,
U15; log 9). -/
def nullifyIfInaccessible (idx : Nat) (name : SegName) (r : SegReg) (newCpl : BitVec 2) : SegReg :=
  if selNull r.sel || (decide (r.dpl < newCpl) && (!r.code || !r.conforming)) then invalidSeg idx name 0#16
  else r

end Sys2Proof.Machine
end

