-- ==== Sys2Proof/Machine/Segments.lean ====
section
/-! DEFINITION. Descriptor reads and the checks on the returned-to segments (20_memory.md R70;
44_iret_privilege_returns.md R210 to R214, R216, R217). -/

namespace Sys2Proof.Machine

/-- The table's base: GDTR or LDTR by the selector's local bit (20_memory.md R70). -/
def tableBase (s : State) (sel : Sel) : Word :=
  if selTI sel then s.ldtr.base else s.gdtr.base

/-- The table's limit. -/
def tableLimit (s : State) (sel : Sel) : Nat :=
  if selTI sel then s.ldtr.limit.toNat else s.gdtr.limit.toNat

/-- The linear address of a selector's descriptor, `table.base + 8*index` (20_memory.md R70). DESIGN CHOICE (log 38): in
IA-32e mode the sum is taken modulo 2^64, and the canonical check sees it so; R70 and R12 give it no modulus. -/
def descriptorAddr (s : State) (sel : Sel) : Word :=
  tableBase s sel + BitVec.ofNat 64 (8 * selIndex sel)

/-- `#GP(selector)` (60_exceptions.md R281). -/
def gpSel (sel : Sel) : Exception := .gp (some (selectorCode sel))

/-- `#GP(0)`. -/
def gp0 : Exception := .gp (some 0#32)

/-- `ReadDescriptor(sel)` for a non-NULL selector (20_memory.md R70). -/
def readDescriptor (s : State) (sel : Sel) : Check Word := do
  require (!selTI sel || s.ldtr.valid) (gpSel sel)
  require (decide (8 * selIndex sel + 7 ≤ tableLimit s sel)) (gpSel sel)
  require (!s.eferLMA || canonical s (descriptorAddr s sel)) (gpSel sel)
  loadV s .supervisorRead (descriptorAddr s sel) 8

/-- A segment register value to be committed, and the linear address of the descriptor whose accessed bit the
load sets, if it sets one. -/
structure LoadedSeg where
  seg : SegReg
  mark : Option Word
deriving DecidableEq, Repr

/-- The load of a segment register from a descriptor (44 R216): with DESC_ACCESSED_WRITEBACK a clear accessed bit
is to be set (20_memory.md R70). -/
def loadSegment (s : State) (sel : Sel) (d : Word) : LoadedSeg where
  seg := segFromDescriptor sel d
  mark := if s.params.descAccessedWriteback && !descAccessed d then some (descriptorAddr s sel) else none

/-- Rows 3 to 7 of `ReturnCSCheck` (44 R210), in their order; each raises `#GP(selector)`. -/
def codeDescriptorRows (s : State) (sel : Sel) (d : Word) : Bool :=
  descIsCode d
  && decide (s.cpl ≤ selRpl sel)
  && !(descConforming d && decide (selRpl sel < descDpl d))
  && !(!descConforming d && descDpl d != selRpl sel)
  && !(s.eferLMA && descL d && descDB d)

/-- `ReturnCSCheck(tempCS, CPL)` (44 R210). -/
def returnCSCheck (s : State) (sel : Sel) : Check LoadedSeg := do
  require (!selNull sel) gp0
  let d ← readDescriptor s sel
  require (codeDescriptorRows s sel d) (gpSel sel)
  require (descPresent d) (.np (selectorCode sel))
  .ok (loadSegment s sel d)

/-- The new mode is 64-bit mode: `IA32_EFER.LMA AND newCS.L` (43 R195). -/
def newMode64 (s : State) (newCS : SegReg) : Bool :=
  s.eferLMA && newCS.L

/-- The condition under which `NullSSRule` accepts a NULL stack-segment selector (44 R213, decision D23). -/
def nullSSAccepted (s : State) (sel : Sel) (rpl : BitVec 2) (newCS : SegReg) : Bool :=
  decide (modeOf s = .long64) && newMode64 s newCS && rpl != 3#2 && selRpl sel == rpl

/-- `SS_NOT_PRESENT_ERROR_CODE`, 0 as S0 states (00_scope.md R7, decision D24). -/
def ssNotPresentErrorCode (_ : Sel) : BitVec 32 := 0#32

/-- Rows 3 to 5 of `ReturnSSCheck` (44 R212); each raises `#GP(selector)`. -/
def stackDescriptorRows (sel : Sel) (rpl : BitVec 2) (d : Word) : Bool :=
  selRpl sel == rpl && descIsWritableData d && descDpl d == rpl

/-- `ReturnSSCheck(tempSS, tempCS, newCS)` (44 R212, R213), `rpl` being the RPL of `tempCS`. -/
def returnSSCheck (s : State) (sel : Sel) (rpl : BitVec 2) (newCS : SegReg) : Check LoadedSeg :=
  if selNull sel then do
    require (nullSSAccepted s sel rpl newCS) gp0
    .ok ⟨nullSeg s.freeIdx sel, none⟩
  else do
    let d ← readDescriptor s sel
    require (stackDescriptorRows sel rpl d) (gpSel sel)
    require (descPresent d) (.ss (some (ssNotPresentErrorCode sel)))
    .ok (loadSegment s sel d)

/-- "EIP is within CS limit" is `EIP ≤ newCS.limit`, the whole value compared (20_memory.md R64, 44 R214, decision
D31). -/
def ipWithinLimit (newCS : SegReg) (ip : Word) : Bool :=
  decide (ip.toNat ≤ newCS.limit.toNat)

/-- The condition of `IPCheck(newCS, tempIP)` (44 R214). -/
def ipAccepted (s : State) (newCS : SegReg) (ip : Word) : Bool :=
  if newMode64 s newCS then canonical s ip else ipWithinLimit newCS ip

/-- Set the accessed bit of a descriptor: bit 40 is bit 0 of its byte 5 (10_state.md R37). A page fault of this write
is `#PF`, before the token is touched (60_exceptions.md R284, R288; log 15). -/
def setAccessed (s : State) (desc : Word) : Check State :=
  modifyByte s .supervisorWrite (desc + 5#64) (fun b => b ||| 1#8)

/-- The accessed-bit write of a loaded segment, if it makes one (20_memory.md R70; log 15, 16). -/
def markAccessed (s : State) (mark : Option Word) : Check State :=
  match mark with
  | none => .ok s
  | some desc => setAccessed s desc

end Sys2Proof.Machine
end

