-- ==== Sys2Proof/Machine/ShadowStack.lean ====
section
/-! DEFINITION. The CET shadow-stack actions (45_iret_shadow_stack.md; 20_memory.md R68, R69). -/

namespace Sys2Proof.Machine

/-- `IA32_U_CET.SHSTK_EN`, bit 0 (10_state.md R29). -/
def userShstkEn (s : State) : Bool := s.uCet.getLsbD 0

/-- `IA32_U_CET.ENDBR_EN`, bit 2 (10_state.md R29). -/
def userEndbrEn (s : State) : Bool := s.uCet.getLsbD 2

/-- `IA32_S_CET.SH_STK_EN`, bit 0 (10_state.md R30). -/
def supervisorShstkEn (s : State) : Bool := s.sCet.getLsbD 0

/-- `ShadowStackEnabled(cpl)` (45 R250). -/
def shadowStackEnabled (s : State) (cpl : BitVec 2) : Bool :=
  s.params.cetSupported && s.cr4CET && s.cr0PE && !s.eflags.VM
  && (if cpl = 3#2 then userShstkEn s else supervisorShstkEn s)

/-- The access is a user shadow-stack access: the instruction executes at CPL 3 (20_memory.md R68). -/
def shadowUser (s : State) : Bool := s.cpl == 3#2

/-- `ShstkLoad8(la)` (20_memory.md R68). -/
def shstkLoad8 (s : State) (la : Word) : Check Word :=
  loadV s (.shadowRead (shadowUser s)) la 8

/-- The exception class of the previous-SSP range check, `SSP_RANGE_FAULT`, `#GP(0)` (00_scope.md R7, decision
D15, conflict C1). -/
def sspRangeFault : Exception := gp0

/-- `LIP(newCS, tempIP)`: "CSBASE + RIP", zero-padded for a 32-bit LIP; the base is 0 in 64-bit mode (45 R259). -/
def lip (s : State) (newCS : SegReg) (ip : Word) : Word :=
  if newMode64 s newCS then ip else lowPart .w32 (newCS.base + ip)

/-- The condition of `PrevSSPRangeCheck(prev, newCS)` (45 R255). -/
def prevSspInRange (s : State) (newCS : SegReg) (prev : Word) : Bool :=
  if newMode64 s newCS then canonical s prev else prev.extractLsb' 32 32 == 0#32

/-- "Check if 8 byte aligned" (45 R253). -/
def aligned8 (v : Word) : Bool := v.extractLsb' 0 3 == 0#3

/-- "Check if 4 byte aligned" (45 R260). -/
def aligned4 (v : Word) : Bool := v.extractLsb' 0 2 == 0#2

/-- SSP after the three loads, `SSP + 24` (45 R252). -/
def sspPopped (s : State) : Word := s.ssp + 24#64

/-- The three loads of a shadow-stack frame and the compares with the return address; answers the previous SSP
(45 R252, R254, R257, R260). -/
def shadowFrame (s : State) (cs : Sel) (newCS : SegReg) (ip : Word) : Check Word := do
  let ssCS ← shstkLoad8 s (s.ssp + 16#64)
  let ssLIP ← shstkLoad8 s (s.ssp + 8#64)
  let prev ← shstkLoad8 s s.ssp
  require (cs.setWidth 64 == ssCS) .cp
  require (lip s newCS ip == ssLIP) .cp
  require (aligned4 prev) .cp
  .ok prev

/-- What the shadow-stack checks answer: the new SSP, and the address of the token to free, if any. -/
structure ShadowResult where
  ssp : Word
  token : Option Word
deriving DecidableEq, Repr

/-- The part of `ShadowOuterChecks` under `ShadowStackEnabled(CPL)`: the previous SSP popped from a supervisor
frame, none when the return is to level 3 or no supervisor shadow stack is in use (45 R254). -/
def outerFrame (s : State) (rpl : BitVec 2) (cs : Sel) (newCS : SegReg) (ip : Word) : Check (Option Word) :=
  if shadowStackEnabled s s.cpl then do
    require (aligned8 s.ssp) .cp
    if rpl = 3#2 then .ok none
    else do
      let prev ← shadowFrame s cs newCS ip
      .ok (some prev)
  else .ok none

/-- The SSP to restore on an outer return: IA32_PL3_SSP, 4-byte aligned, at level 3; else the popped one (45 R254,
R260; U6). -/
def outerPrev (s : State) (rpl : BitVec 2) (popped : Option Word) : Check Word :=
  if rpl = 3#2 then do
    require (aligned4 s.pl3Ssp) .cp
    .ok s.pl3Ssp
  else match popped with
    | some prev => .ok prev
    | none => .error (.refuse .prevSspUnassigned)

/-- "tempOldSSP": SSP after the frame, if one was popped (45 R254). -/
def outerOldSsp (s : State) (popped : Option Word) : Word :=
  if popped.isSome then sspPopped s else s.ssp

/-- `ShadowOuterChecks` (45 R254). -/
def shadowOuterChecks (s : State) (rpl : BitVec 2) (cs : Sel) (newCS : SegReg) (ip : Word) :
    Check ShadowResult := do
  let popped ← outerFrame s rpl cs newCS ip
  let token := if shadowStackEnabled s s.cpl then some (outerOldSsp s popped) else none
  if shadowStackEnabled s rpl then do
    let prev ← outerPrev s rpl popped
    require (prevSspInRange s newCS prev) sspRangeFault
    .ok ⟨prev, token⟩
  else .ok ⟨outerOldSsp s popped, token⟩

/-- `ShadowSameChecks` (45 R257). -/
def shadowSameChecks (s : State) (cs : Sel) (newCS : SegReg) (ip : Word) : Check ShadowResult :=
  if shadowStackEnabled s s.cpl then do
    require (aligned8 s.ssp) .cp
    let prev ← shadowFrame s cs newCS ip
    require (prevSspInRange s newCS prev) sspRangeFault
    .ok ⟨prev, if s.eferLMA && prev != sspPopped s then some (sspPopped s) else none⟩
  else .ok ⟨s.ssp, none⟩

/-- `TokenFree(la)`: one atomic compare-exchange; a token that does not match is left alone (20_memory.md R69, 45
R256). The read is a supervisor access when the old CPL is below 3 (R69). DESIGN CHOICE (log 37): the compare is a
shadow-stack read, and a shadow-stack write, of the same privilege, is asked for only when the token matches, so that a
mismatch on a page that `Translate` refuses for writing completes; R69 gives neither access its kind. -/
def tokenFree (s : State) (la : Word) : Check State :=
  refusing .tokenPageFault (do
    let old ← loadV s (.shadowRead (shadowUser s)) la 8
    if old = la ||| 1#64 then storeV s (.shadowWrite (shadowUser s)) la 8 la else .ok s)

/-- The token access of a Commit, if there is one. -/
def freeToken (s : State) (token : Option Word) : Check State :=
  match token with
  | none => .ok s
  | some la => tokenFree s la

/-- The stores of a Commit, in order: accessed bits of CS and SS, then the token (log 16). -/
def commitStores (s : State) (cs ss : Option Word) (token : Option Word) : Check State := do
  let s1 ← markAccessed s cs
  let s2 ← markAccessed s1 ss
  freeToken s2 token

end Sys2Proof.Machine
end

