-- ==== Sys2Proof/Machine/Returns.lean ====
section
/-! DEFINITION. The returns to an outer and to the same privilege level (44_iret_privilege_returns.md). -/

namespace Sys2Proof.Machine

/-- The popped stack pointer and stack-segment selector, items 3 and 4 of the frame (44 R211, 43 R193). -/
structure StackItems where
  sp : Word
  ss : Sel
deriving DecidableEq, Repr

/-- The two pops of a stack switch (44 R211, 43 R193). -/
def popStack (s : State) (n : OpSize) : Check StackItems := do
  let sp ← popAt s n 3
  let ss ← popSel s n 4
  .ok ⟨sp, ss⟩

/-- What both returns commit: flags, instruction pointer and CS (44 R215, R219). -/
def commitReturn (s : State) (n : OpSize) (f : Frame) (newCS : SegReg) : State :=
  { s with
    eflags := writeFlagsProt s.eflags (Eflags.ofImage f.flags) n s.cpl
    rip := f.ip
    cs := newCS }

/-- The register part of an outer return's Commit (44 R215, R217, R218). -/
def commitOuter (s : State) (n : OpSize) (f : Frame) (st : StackItems) (newCS newSS : SegReg) (ssp : Word) :
    State :=
  let rpl := selRpl f.cs
  { commitReturn s n f newCS with
    cpl := rpl
    rsp := loadStackPointer s n st.sp
    ss := newSS
    ssp := ssp
    es := nullifyIfInaccessible s.freeIdx .es s.es rpl
    fs := nullifyIfInaccessible s.freeIdx .fs s.fs rpl
    gs := nullifyIfInaccessible s.freeIdx .gs s.gs rpl
    ds := nullifyIfInaccessible s.freeIdx .ds s.ds rpl }

/-- RETURN-TO-OUTER-PRIVILEGE-LEVEL (44 R215, order R220). -/
def returnToOuter (n : OpSize) (s : State) (f : Frame) (newCS : LoadedSeg) : Check State := do
  let st ← popStack s n
  let newSS ← returnSSCheck s st.ss (selRpl f.cs) newCS.seg
  require (ipAccepted s newCS.seg f.ip) gp0
  let sh ← shadowOuterChecks s (selRpl f.cs) f.cs newCS.seg f.ip
  let t ← commitStores s newCS.mark newSS.mark sh.token
  .ok (commitOuter t n f st newCS.seg newSS.seg sh.ssp)

/-- RETURN-TO-SAME-PRIVILEGE-LEVEL without a stack switch: three items (44 R219; 42 R172, 43 R194). -/
def returnToSame (n : OpSize) (s : State) (f : Frame) (newCS : LoadedSeg) : Check State := do
  require (ipAccepted s newCS.seg f.ip) gp0
  let sh ← shadowSameChecks s f.cs newCS.seg f.ip
  let t ← commitStores s newCS.mark none sh.token
  .ok { commitReturn t n f newCS.seg with
    rsp := stackPointerAdvance s (slotOffset s n 3)
    ssp := sh.ssp }

/-- RETURN-TO-SAME-PRIVILEGE-LEVEL begun in 64-bit mode: RSP and SS are popped and SS is checked (43 R193, 44
R219). -/
def returnToSameSwitch (n : OpSize) (s : State) (f : Frame) (newCS : LoadedSeg) : Check State := do
  let st ← popStack s n
  let newSS ← returnSSCheck s st.ss (selRpl f.cs) newCS.seg
  require (ipAccepted s newCS.seg f.ip) gp0
  let sh ← shadowSameChecks s f.cs newCS.seg f.ip
  let t ← commitStores s newCS.mark newSS.mark sh.token
  .ok { commitReturn t n f newCS.seg with
    rsp := loadStackPointer s n st.sp
    ss := newSS.seg
    ssp := sh.ssp }

end Sys2Proof.Machine
end

