-- ==== Sys2Proof/Machine/Ia32e.lean ====
section
/-! DEFINITION. IA-32e mode: compatibility mode and 64-bit mode (43_iret_ia32e.md). -/

namespace Sys2Proof.Machine

/-- IA-32e-MODE (43 R190, R191). -/
def ia32eMode (n : OpSize) (s : State) : Check State := do
  require (!s.eflags.NT) gp0
  let f ← popFrame s n
  let newCS ← returnCSCheck s f.cs
  if s.cpl < selRpl f.cs then returnToOuter n s f newCS
  else if modeOf s = .long64 then returnToSameSwitch n s f newCS
  else returnToSame n s f newCS

end Sys2Proof.Machine
end

