-- ==== Sys2Proof/Machine/Protected.lean ====
section
/-! DEFINITION. Legacy protected mode without a task return (42_iret_protected.md). -/

namespace Sys2Proof.Machine

/-- The CET gate of a return to virtual-8086 mode (42 R166). -/
def v86CetGate (s : State) : Bool :=
  s.cr4CET && (userEndbrEn s || userShstkEn s)

/-- Items 3 to 8 of the nine-dword frame (42 R168). -/
structure V86Items where
  sp : Word
  ss : Sel
  es : Sel
  ds : Sel
  fs : Sel
  gs : Sel
deriving DecidableEq, Repr

/-- The six further pops, all 32 bits wide (42 R168). -/
def popV86Items (s : State) : Check V86Items := do
  let sp ← popAt s .w32 3
  let ss ← popSel s .w32 4
  let es ← popSel s .w32 5
  let ds ← popSel s .w32 6
  let fs ← popSel s .w32 7
  let gs ← popSel s .w32 8
  .ok ⟨sp, ss, es, ds, fs, gs⟩

/-- The register part of the Commit (42 R169): every flag comes from the image; SSP stays (45 R258). -/
def commitV86 (s : State) (f : Frame) (v : V86Items) : State :=
  { s with
    eflags := Eflags.ofImage f.flags
    rip := f.ip
    cs := v86SegLoad f.cs
    rsp := writeEsp s (v.sp.setWidth 32)
    ss := v86SegLoad v.ss
    es := v86SegLoad v.es
    ds := v86SegLoad v.ds
    fs := v86SegLoad v.fs
    gs := v86SegLoad v.gs
    cpl := 3#2 }

/-- The token of a return to virtual-8086 mode: at SSP, which is not popped (45 R258). -/
def v86Token (s : State) : Option Word :=
  if shadowStackEnabled s 0#2 then some s.ssp else none

/-- RETURN-TO-VIRTUAL-8086-MODE (42 R166 to R169, 45 R258). -/
def returnToVirtual8086 (s : State) (f : Frame) : Check State := do
  require (!v86CetGate s) gp0
  require (ipWithinLimit (v86SegLoad f.cs) f.ip) gp0
  let v ← popV86Items s
  require (!shadowStackEnabled s 0#2 || aligned8 s.ssp) .cp
  let t ← freeToken s (v86Token s)
  .ok (commitV86 t f v)

/-- PROTECTED-MODE-RETURN (42 R171). -/
def protectedModeReturn (n : OpSize) (s : State) (f : Frame) : Check State := do
  let newCS ← returnCSCheck s f.cs
  if s.cpl < selRpl f.cs then returnToOuter n s f newCS
  else returnToSame n s f newCS

/-- The return goes to virtual-8086 mode: image VM = 1 and CPL = 0 (42 R162). -/
def returnsToV86 (s : State) (f : Frame) : Bool :=
  (Eflags.ofImage f.flags).VM && s.cpl == 0#2

/-- PROTECTED-MODE with NT = 0 (42 R161, R162). -/
def protectedMode (n : OpSize) (s : State) : Check State := do
  let f ← popFrame s n
  if returnsToV86 s f then returnToVirtual8086 s f
  else protectedModeReturn n s f

end Sys2Proof.Machine
end

