-- ==== Sys2Proof/Machine/RealV86.lean ====
section
/-! DEFINITION. Real-address mode, and the return within virtual-8086 mode (41_iret_real_v86.md). -/

namespace Sys2Proof.Machine

/-- REAL-ADDRESS-MODE (41 R140, R141, R143); its `#GP` has no error code. -/
def realAddressMode (n : OpSize) (s : State) : Check State := do
  let f ← popFrame s n
  require (ipWithinLimit (realSegLoad s.cs f.cs) f.ip) (.gp none)
  .ok { s with
    rip := f.ip
    cs := realSegLoad s.cs f.cs
    eflags := writeFlagsReal s.eflags (Eflags.ofImage f.flags) n
    rsp := stackPointerAdvance s (slotOffset s n 3) }

/-- RETURN-FROM-VIRTUAL-8086-MODE: the IOPL gate before any pop (41 R144), then the return within virtual-8086
mode (41 R145, R146). -/
def returnFromVirtual8086 (n : OpSize) (s : State) : Check State := do
  require (s.eflags.IOPL == 3#2) gp0
  let f ← popFrame s n
  require (ipWithinLimit (v86SegLoad f.cs) f.ip) gp0
  .ok { s with
    rip := f.ip
    cs := v86SegLoad f.cs
    eflags := writeFlagsV86 s.eflags (Eflags.ofImage f.flags) n
    rsp := stackPointerAdvance s (slotOffset s n 3) }

end Sys2Proof.Machine
end

