-- ==== Sys2Proof/Machine/TaskReturn.lean ====
section
/-! DEFINITION. TASK-RETURN: the return from a nested task (42_iret_protected.md R163 to R165). The task switch
itself is the parameter `SwitchTasks` (log 5, 23). -/

namespace Sys2Proof.Machine

/-- `TASK_RETURN_FAULT`, `#GP(selector)` as S0 states (00_scope.md R7, decision D28). -/
def taskReturnFault (link : Sel) : Exception := gpSel link

/-- The linear address of a TSS descriptor in the GDT (42 R164). -/
def tssDescriptorAddr (s : State) (sel : Sel) : Word :=
  s.gdtr.base + BitVec.ofNat 64 (8 * selIndex sel)

/-- "TSS specified in link field of current TSS": the word at offset 0 (42 R163; 10_state.md R38). -/
def readLink (s : State) : Check Sel := do
  let v ← loadV s .supervisorRead s.tr.base 2
  .ok (v.setWidth 16)

/-- `TaskLinkCheck(link)` (42 R164). -/
def taskLinkCheck (s : State) (link : Sel) : Check Unit := do
  require (!selTI link) (taskReturnFault link)
  require (decide (8 * selIndex link + 7 ≤ s.gdtr.limit.toNat)) (taskReturnFault link)
  let d ← loadV s .supervisorRead (tssDescriptorAddr s link) 8
  require (descIsTss d) (taskReturnFault link)
  require (descBusy d) (taskReturnFault link)

/-- The answer of `SwitchTasks` for a back link and a return address, if it is given. -/
def lookupTask (link : Sel) (returnIp : Word) : List TaskRule → Option SwitchResult
  | [] => none
  | r :: rs => if r.link = link ∧ r.returnIp = returnIp then some r.result else lookupTask link returnIp rs

/-- The bytes a task switch stores. -/
def storeCells (m : Memory) : List (Word × Byte) → Memory
  | [] => m
  | (a, b) :: cs => storeCells (m.write a.toNat b) cs

/-- `SSP` after a task switch: the new task's, but as before where `ShadowStackEnabled` is false for both the old and the
new privilege level (10_state.md R39), the new one under the EFLAGS of the new task (log 23). -/
def switchedSsp (s : State) (t : TaskImage) : Word :=
  if shadowStackEnabled s s.cpl || shadowStackEnabled { s with eflags := t.eflags } t.cpl then t.ssp else s.ssp

/-- The state in the new task (42 R163); what `TaskImage` does not hold stays, the other general registers among it
(10_state.md R20, R44; log 23, 26). -/
def enterTask (s : State) (t : TaskImage) : State :=
  { s with
    rsp := t.rsp
    rip := t.rip
    eflags := t.eflags
    cs := t.cs
    ss := t.ss
    ds := t.ds
    es := t.es
    fs := t.fs
    gs := t.gs
    cpl := t.cpl
    ldtr := t.ldtr
    tr := t.tr
    cr3 := t.cr3
    ssp := switchedSsp s t
    translation := t.translation
    mem := storeCells s.mem t.stores }

/-- "Mark the task just abandoned as NOT BUSY": bit 41 of its TSS descriptor, bit 1 of byte 5, is cleared (42 R163).
A page fault of this write is `#PF` (60_exceptions.md R284; log 15). -/
def clearBusy (s : State) (outgoing : Sel) : Check State :=
  modifyByte s .supervisorWrite (tssDescriptorAddr s outgoing + 5#64) (fun b => b &&& 0xFD#8)

/-- The end of a task return in the new task: the late `#GP(0)` of 42 R165, with the switch committed. -/
def endTaskReturn (t : State) : Out :=
  if ipWithinLimit t.cs (lowPart .w32 t.rip) then .next (retire t)
  else raise gp0 (unblockNmi t)

/-- The switch and what follows it (42 R163): an exception of the switch, or a page fault of the busy-bit write, leaves
the old task (60_exceptions.md R288; log 23). -/
def switchTo (s : State) : Option SwitchResult → Out
  | none => .refused .switchTasksAbsent
  | some (.raised x) => raise x (unblockNmi s)
  | some (.switched t) =>
    match clearBusy (enterTask s t) s.tr.sel with
    | .ok t' => endTaskReturn t'
    | .error (.exc x) => raise x (unblockNmi s)
    | .error (.refuse r) => .refused r

/-- The offset of the code that follows the IRET, which `SwitchTasks` saves (10_state.md R22). R22 gives the addition no
modulus: the 64-bit sum, not truncated to EIP, is the model's (DESIGN CHOICE, log 5). -/
def returnAddress (s : State) (len : Nat) : Word :=
  s.rip + BitVec.ofNat 64 len

/-- The back link, read and checked (42 R163, R164). -/
def checkedLink (s : State) : Check Sel := do
  let link ← readLink s
  taskLinkCheck s link
  .ok link

/-- TASK-RETURN of an IRET of `len` bytes (42 R163). DESIGN CHOICE, where `SwitchTasks` is absent: the back link is read
and checked first, so a bad one raises as R164 and 95_test_vectors.md V14(b) to (e) show, and only a return with a good one
is refused, though 00_scope.md R6 and U2 speak of refusing the whole path (log 5). -/
def taskReturn (len : Nat) (s : State) : Out :=
  match checkedLink s with
  | .ok link => switchTo s (lookupTask link (returnAddress s len) s.tasks)
  | .error (.exc x) => raise x (unblockNmi s)
  | .error (.refuse r) => .refused r

end Sys2Proof.Machine
end

