-- ==== Sys2Proof/Machine/Iret.lean ====
section
/-! DEFINITION. The skeleton of one execution (40_iret_common.md R113) and the meanings of the six rows. -/

namespace Sys2Proof.Machine

/-- `IRET_exec(opsize)` for an instruction of `len` bytes without LOCK (40_iret_common.md R113). Outside the
spec's preconditions it is refused: VMX non-root operation (60 R294), CR4.VME = 1 in virtual-8086 mode (41
R144; log 21). -/
def iretExec (n : OpSize) (len : Nat) (s : State) : Out :=
  if s.vmxNonRoot then .refused .vmxNonRoot
  else match dispatch s with
    | .realAddress => finish s (realAddressMode n s)
    | .fromV86 =>
      if s.cr4VME then .refused .virtual8086Extensions else finish s (returnFromVirtual8086 n s)
    | .protectedMode =>
      if s.eflags.NT then taskReturn len s else finish s (protectedMode n s)
    | .ia32e => finish s (ia32eMode n s)

/-- `IRET`, `CF` with default operand size 16 (40_iret_common.md R110). -/
def execIret (p : Prefixes) (s : State) : Out :=
  iretExec .w16 (p.length + 1) s

/-- `IRET`, `66 CF` with default operand size 32 (R110). -/
def execIret66 (p : Prefixes) (s : State) : Out :=
  iretExec .w16 (p.length + 1) s

/-- `IRETD`, `CF` with default operand size 32 (R111). -/
def execIretd (p : Prefixes) (s : State) : Out :=
  iretExec .w32 (p.length + 1) s

/-- `IRETD`, `66 CF` with default operand size 16 (R111). -/
def execIretd66 (p : Prefixes) (s : State) : Out :=
  iretExec .w32 (p.length + 1) s

/-- `IRETQ` (R112): it exists in 64-bit mode only (30_encoding.md R95). -/
def execIretq (p : Prefixes) (s : State) : Out :=
  if modeOf s = .long64 then iretExec .w64 (p.length + 1) s
  else .refused .iretqOutside64

/-- LOCK: `#UD` at decode, before any stack access; NMIs are unblocked when NMI_UNBLOCK_ON_UD holds
(30_encoding.md R96, 40_iret_common.md R117). DESIGN CHOICE: in virtual-8086 mode CR4.VME is not tested, since the `#UD`
comes before the IOPL gate whose precondition CR4.VME = 0 is (60_exceptions.md R287; 41 R144, decision D29; log 21). -/
def execLockIret (_ : Prefixes) (s : State) : Out :=
  if s.vmxNonRoot then .refused .vmxNonRoot
  else raise .ud (if s.params.nmiUnblockOnUd then unblockNmi s else s)

end Sys2Proof.Machine
end

