-- ==== Sys2Proof/Machine/Dispatch.lean ====
section
/-! DEFINITION. exec: one arm per constructor of Instr. -/

namespace Sys2Proof.Machine

def exec (i : Instr) (s : State) : Host.Outcome State Fault Refusal :=
  match i with
  | .iret p => Sys2Proof.Machine.execIret p s
  | .iret66 p => Sys2Proof.Machine.execIret66 p s
  | .iretd p => Sys2Proof.Machine.execIretd p s
  | .iretd66 p => Sys2Proof.Machine.execIretd66 p s
  | .iretq p => Sys2Proof.Machine.execIretq p s
  | .lockIret p => Sys2Proof.Machine.execLockIret p s

end Sys2Proof.Machine
end

