-- ==== Sys2Proof/WellFormed.lean ====
section
/-! DEFINITION. Which instructions exist in which decoding context: the "condition" column of
spec/opcode_table.json, one check per row (30_encoding.md R94, R95, R96, R99). -/

namespace Sys2Proof

/-- A REX byte is recognised only in 64-bit mode (R92). -/
def rexAllowed (c : DecodeCtx) (p : Prefixes) : Bool :=
  !p.rex.isSome || c.mode64

/-- The instruction can stand in the context: its prefix bytes are those of its row. -/
def Instr.wellFormed (c : DecodeCtx) : Instr → Bool
  | .iret p => !p.hasLock && !p.rexW && rexAllowed c p && !p.hasOpSize && !defaultIs32 c
  | .iret66 p => !p.hasLock && !p.rexW && rexAllowed c p && p.hasOpSize && defaultIs32 c
  | .iretd p => !p.hasLock && !p.rexW && rexAllowed c p && !p.hasOpSize && defaultIs32 c
  | .iretd66 p => !p.hasLock && !p.rexW && rexAllowed c p && p.hasOpSize && !defaultIs32 c
  | .iretq p => !p.hasLock && p.rexW && c.mode64
  | .lockIret p => p.hasLock && rexAllowed c p

end Sys2Proof
end

