-- ==== Sys2Proof/Decode.lean ====
section
/-! DEFINITION. The decoder, total on any bytes, and the encoder (30_encoding.md). -/

namespace Sys2Proof

/-- The opcode byte of every row, CFH (R90). -/
def opcodeByte : Byte := 0xCF#8

/-- The byte of a legacy prefix: 66H (R93), F0H (R96). -/
def LegacyPrefix.byte : LegacyPrefix → Byte
  | .opSize => 0x66#8
  | .lock => 0xF0#8

/-- The legacy prefix a byte stands for. -/
def legacyOfByte (b : Byte) : Option LegacyPrefix :=
  if b = 0x66#8 then some .opSize
  else if b = 0xF0#8 then some .lock
  else none

/-- The segment overrides, the address-size and the repeat bytes, which the model refuses (R97). -/
def isUnsupportedPrefix (b : Byte) : Bool :=
  [0x26#8, 0x2E#8, 0x36#8, 0x3E#8, 0x64#8, 0x65#8, 0x67#8, 0xF2#8, 0xF3#8].contains b

/-- A REX byte, `0100WRXB` (R92). -/
def isRexByte (b : Byte) : Bool :=
  b.extractLsb' 4 4 == 0x4#4

/-- The byte is one of the prefix bytes an IRET is read with: 66H, F0H, and REX in 64-bit mode (R92, R93, R96). -/
def isPrefixByte (mode64 : Bool) (b : Byte) : Bool :=
  (legacyOfByte b).isSome || (mode64 && isRexByte b)

/-- The REX byte with the given W R X B. -/
def rexByte (wrxb : BitVec 4) : Byte :=
  0x4#4 ++ wrxb

/-- What follows a REX byte: the opcode, at once (R92). -/
def readAfterRex (r : Byte) : List Byte → Except DecodeRefusal (Prefixes × List Byte)
  | [] => .error .noOpcode
  | b :: rest =>
    if b = opcodeByte then .ok (⟨[], some (r.extractLsb' 0 4)⟩, rest)
    else .error (.misplacedRex r)

/-- Consume prefix bytes until the opcode is met (R90); REX bytes exist in 64-bit mode only (R92, R101). -/
def readPrefixes (mode64 : Bool) : List Byte → Except DecodeRefusal (Prefixes × List Byte)
  | [] => .error .noOpcode
  | b :: bs =>
    if b = opcodeByte then .ok (⟨[], none⟩, bs)
    else match legacyOfByte b with
      | some l =>
        match readPrefixes mode64 bs with
        | .ok (p, rest) => .ok (⟨l :: p.legacy, p.rex⟩, rest)
        | .error e => .error e
      | none =>
        if mode64 && isRexByte b then readAfterRex b bs
        else if isUnsupportedPrefix b then .error (.unsupportedPrefix b)
        else .error (.otherOpcode b)

/-- The row an opcode CF with these prefix bytes is (R94, R96, R99). -/
def classify (c : DecodeCtx) (p : Prefixes) : Instr :=
  if p.hasLock then .lockIret p
  else match operandSize c p, p.hasOpSize with
    | .w16, false => .iret p
    | .w16, true => .iret66 p
    | .w32, false => .iretd p
    | .w32, true => .iretd66 p
    | .w64, _ => .iretq p

/-- Decode the instruction at the head of a byte sequence, with the bytes after it. -/
def decode (c : DecodeCtx) (bytes : List Byte) : Except DecodeRefusal (Instr × List Byte) :=
  match readPrefixes c.mode64 bytes with
  | .ok (p, rest) => .ok (classify c p, rest)
  | .error e => .error e

/-- The bytes before the opcode. -/
def Prefixes.encode (p : Prefixes) : List Byte :=
  p.legacy.map LegacyPrefix.byte ++ (match p.rex with | some wrxb => [rexByte wrxb] | none => [])

/-- The bytes of an instruction, first byte first (R90, R99). -/
def encode (i : Instr) : List Byte :=
  i.prefixes.encode ++ [opcodeByte]

/-- The low `8*k` bits of a number as `k` bytes, the most significant one first. -/
def bytesMsbFirst : Nat → Nat → List Byte
  | 0, _ => []
  | k + 1, w => BitVec.ofNat 8 (w >>> (8 * k)) :: bytesMsbFirst k w

/-- The bytes of a row's word in address order. spec/opcode_table.json numbers a row's bits with the first byte
leftmost (INDEX.md: 0x48CF is byte 48H followed by byte CFH), so bits 7..0 are the LAST byte. The LOCK row gives
only its first byte, "F0 then any row above": the row above taken is CF (log 19). -/
def tableBytes (nbits w : Nat) : List Byte :=
  let bs := bytesMsbFirst (nbits / 8) w
  if bs = [0xF0#8] then [0xF0#8, opcodeByte] else bs

/-- A word whose first byte is a REX byte exists in 64-bit mode only (R92). -/
def tableNeedsMode64 (nbits w : Nat) : Bool :=
  match tableBytes nbits w with
  | b :: _ => isRexByte b
  | [] => false

/-- The context a row's word is decoded in: 64-bit mode for a word that begins with REX; else the one of the
machine after reset, real-address mode with the default operand size 16 (log 19). -/
def tableCtx (nbits w : Nat) : DecodeCtx :=
  ⟨tableNeedsMode64 nbits w, false⟩

/-- The instruction the decoder reads from a row's word (see `tableBytes`, `tableCtx`). -/
def decodeTableWord (nbits w : Nat) : Option Instr :=
  match decode (tableCtx nbits w) (tableBytes nbits w) with
  | .ok (i, _) => some i
  | .error _ => none

end Sys2Proof
end

