-- ==== Sys2Proof/Machine/Fetch.lean ====
section
/-! DEFINITION. Fetching the bytes of an instruction at CS:RIP (30_encoding.md R90), and placing bytes there. -/

namespace Sys2Proof.Machine

/-- The number of code offsets, 2^64: a bound no fetch reaches, for RIP would then have passed every offset. The
spec gives an instruction no length limit ("Do not assume 15"), and neither does the model (R90; log 17). -/
def codeOffsets : Nat := 2 ^ 64

/-- The number of bytes `State.withFetchWord` places: a table word and zeros after it (log 19). -/
def placedBytes : Nat := 15

/-- The linear address of a code offset: the base of CS is 0 in 64-bit mode (44 R216, 45 R259). -/
def codeLinear (s : State) (ip : Word) : Word :=
  if modeOf s = .long64 then ip else lowPart .w32 (s.cs.base + ip)

/-- The offset can be fetched: canonical in 64-bit mode, within the CS limit elsewhere (log 17). -/
def codeInBounds (s : State) (ip : Word) : Bool :=
  if modeOf s = .long64 then canonical s ip else decide (ip.toNat ≤ s.cs.limit.toNat)

/-- The byte at a code offset, none where it cannot be fetched (log 17). -/
def fetchByte (s : State) (ip : Word) : Option Byte :=
  if codeInBounds s ip then
    match loadByte s (.fetch s.cpl) (codeLinear s ip) with
    | .ok b => some b
    | .error _ => none
  else none

/-- Prefix bytes at increasing offsets, however many, and the first byte that is none, up to the first that cannot be
fetched: "consuming prefix bytes until it meets CF" (30_encoding.md R90). DESIGN CHOICE (log 36): in 64-bit mode offset 0
follows offset FFFFFFFFFFFFFFFFH, of which R90 ("increasing addresses") and R22 ("no wrap-around rule") say nothing. -/
def fetchFrom (s : State) : Nat → Word → List Byte
  | 0, _ => []
  | k + 1, ip =>
    match fetchByte s ip with
    | some b => if isPrefixByte (decodeCtx s).mode64 b then b :: fetchFrom s k (ip + 1#64) else [b]
    | none => []

/-- The bytes the next instruction is decoded from. -/
def fetchBytes (s : State) : List Byte :=
  fetchFrom s codeOffsets s.rip

/-- Bytes placed at increasing code offsets from outside the machine, where they can be fetched. -/
def placeCode (s : State) : Word → List Byte → State
  | _, [] => s
  | ip, b :: bs =>
    match translate s (.fetch s.cpl) (codeLinear s ip) with
    | .ok pa => placeCode { s with mem := s.mem.write pa.toNat b } (ip + 1#64) bs
    | .error _ => placeCode s (ip + 1#64) bs

/-- The machine switched to 64-bit mode, where alone a word that begins with REX can run (30_encoding.md R92). -/
def enterMode64 (s : State) : State :=
  { s with cr0PE := true, eferLMA := true, cs := { s.cs with L := true } }

/-- A row's word placed at CS:RIP, zeros after it (log 19). -/
def placeTableWord (s : State) (nbits w : Nat) : State :=
  let t := if tableNeedsMode64 nbits w then enterMode64 s else s
  let bs := tableBytes nbits w
  placeCode t t.rip (bs ++ List.replicate (placedBytes - bs.length) 0#8)

end Sys2Proof.Machine
end

