-- ==== Sys2Proof/Machine/Step.lean ====
section
/-! DEFINITION. One step: fetch at CS:RIP, decode, execute (40_iret_common.md R126, 70_reset_and_hazards.md
R335). -/

namespace Sys2Proof.Machine

/-- One step; bytes that are no instruction in scope are refused (70 R335). -/
def step (s : State) : Host.Outcome State Fault Refusal :=
  match decode (decodeCtx s) (fetchBytes s) with
  | .ok (i, _) => exec i s
  | .error e => .refused (.decode e)

/-- The state with a table word's instruction where the next step fetches (log 19). -/
def State.withFetchWord (s : State) (nbits w : Nat) : State :=
  placeTableWord s nbits w

end Sys2Proof.Machine
end

