-- ==== Sys2Proof/Safety.lean ====
section
/-! DEFINITION. The terms claims are stated in: the invariant of the machine, what a return leaves alone, where it
may store, and when the spec's checks pass. -/

namespace Sys2Proof.Machine

/-! ### The invariant -/

/-- CPL is 0 in real-address mode, 3 in virtual-8086 mode (10_state.md R36), and the RPL of CS elsewhere (44
R219). -/
def cplMatchesMode (s : State) : Bool :=
  match modeOf s with
  | .real => s.cpl == 0#2
  | .v8086 => s.cpl == 3#2
  | .protectedMode | .compat | .long64 => s.cpl == selRpl s.cs.sel

/-- The incoming task of a switch has the CPL its own mode and CS give. -/
def taskImageWf (t : TaskImage) : Bool :=
  if t.eflags.VM then t.cpl == 3#2 else t.cpl == selRpl t.cs.sel

/-- A rule of `SwitchTasks` answers with a well-formed task. -/
def taskRuleWf (r : TaskRule) : Bool :=
  match r.result with
  | .switched t => taskImageWf t
  | .raised _ => true

/-- The invariant: memory keeps its canonical form, CPL fits the mode, an unsupported feature is off (00_scope.md
R7), and `SwitchTasks` answers well-formed tasks. -/
def Inv (s : State) : Bool :=
  s.mem.wf && cplMatchesMode s
  && (s.params.cetSupported || !s.cr4CET)
  && (s.params.ia32eSupported || !s.eferLMA)
  && s.tasks.all taskRuleWf

/-! ### What an execution leaves alone -/

/-- The execution is a task return (42 R160). -/
def takesTaskReturn (s : State) : Bool :=
  decide (dispatch s = .protectedMode) && s.eflags.NT

/-- What no path changes, a task return among them: the general registers other than the stack pointer, the control
bits, the MSRs, GDTR, the preconditions and the parameters that are switches (10_state.md R20, R44). -/
def sameControl (s t : State) : Prop :=
  t.gprs = s.gprs ∧ t.cr0PE = s.cr0PE ∧ t.cr0AM = s.cr0AM ∧ t.cr4CET = s.cr4CET ∧ t.cr4VME = s.cr4VME
  ∧ t.eferLMA = s.eferLMA ∧ t.uCet = s.uCet ∧ t.sCet = s.sCet ∧ t.pl3Ssp = s.pl3Ssp ∧ t.gdtr = s.gdtr
  ∧ t.vmxNonRoot = s.vmxNonRoot ∧ t.params = s.params ∧ t.tasks = s.tasks

/-- What only a task return changes: CR3, LDTR, TR and `Translate` (10_state.md R44; 44 R221). -/
def sameTask (s t : State) : Prop :=
  t.cr3 = s.cr3 ∧ t.ldtr = s.ldtr ∧ t.tr = s.tr ∧ t.translation = s.translation

/-- The four data segment registers are as before (44 R219). -/
def sameDataSegments (s t : State) : Prop :=
  t.ds = s.ds ∧ t.es = s.es ∧ t.fs = s.fs ∧ t.gs = s.gs

/-- "(SegmentSelector == NULL) OR (tempDesc(DPL) < CPL AND tempDesc(Type) is (data or non-conforming code))"
(44 R218). -/
def inaccessible (r : SegReg) (cpl : BitVec 2) : Prop :=
  r.sel.toNat < 4 ∨ (r.dpl < cpl ∧ (r.code = false ∨ r.conforming = false))

/-- A data segment register after an outer return: selector 0 and invalid when inaccessible, as before otherwise
(44 R218). -/
def afterOuterReturn (old new : SegReg) (cpl : BitVec 2) : Prop :=
  (inaccessible old cpl → new.sel = 0#16 ∧ new.valid = false) ∧ (¬ inaccessible old cpl → new = old)

/-! ### Where an execution may store -/

/-- The byte that holds a descriptor's accessed bit, when the write-back is on (20_memory.md R70). -/
def markTargets (s : State) (sel : Sel) : List (Access × Word) :=
  if s.params.descAccessedWriteback && !selNull sel then [(.supervisorWrite, descriptorAddr s sel + 5#64)] else []

/-- The eight bytes of a token (20_memory.md R69). -/
def tokenTargets (s : State) (token : Option Word) : List (Access × Word) :=
  match token with
  | none => []
  | some la => (List.range 8).map fun k => (.shadowWrite (shadowUser s), la + BitVec.ofNat 64 k)

/-- The token of a protected-style return: at SSP when the return is to level 3 from an inner level, else above the
popped frame (45 R254, R257). -/
def returnToken (s : State) (cs : Sel) : Option Word :=
  if shadowStackEnabled s s.cpl then
    some (if s.cpl < selRpl cs ∧ selRpl cs = 3#2 then s.ssp else sspPopped s)
  else none

/-- The return pops SS: to an outer level, or begun in 64-bit mode (42 R172, 43 R193). -/
def popsStack (s : State) (cs : Sel) : Bool :=
  decide (s.cpl < selRpl cs) || decide (modeOf s = .long64)

/-- The linear bytes a protected-style return may store to. -/
def returnTargets (n : OpSize) (s : State) (f : Frame) : List (Access × Word) :=
  markTargets s f.cs
  ++ (if popsStack s f.cs then
        match popSel s n 4 with
        | .ok ss => markTargets s ss
        | .error _ => []
      else [])
  ++ tokenTargets s (returnToken s f.cs)

/-- The linear bytes an execution other than a task return may store to. -/
def storeTargets (n : OpSize) (s : State) : List (Access × Word) :=
  match dispatch s, popFrame s n with
  | .protectedMode, .ok f =>
    if returnsToV86 s f then tokenTargets s (v86Token s) else returnTargets n s f
  | .ia32e, .ok f => returnTargets n s f
  | _, _ => []

/-! ### When the checks pass -/

/-- The condition of `ReturnCSCheck` in the terms of its rows 1 and 3 to 8 (44 R210). -/
def codeSegmentReturnable (s : State) (cs : Sel) (d : Word) : Prop :=
  4 ≤ cs.toNat
  ∧ d.getLsbD 44 = true ∧ d.getLsbD 43 = true
  ∧ s.cpl ≤ selRpl cs
  ∧ (d.getLsbD 42 = true → d.extractLsb' 45 2 ≤ selRpl cs)
  ∧ (d.getLsbD 42 = false → d.extractLsb' 45 2 = selRpl cs)
  ∧ ¬ (s.eferLMA = true ∧ d.getLsbD 53 = true ∧ d.getLsbD 54 = true)
  ∧ d.getLsbD 47 = true

/-- The condition of `ReturnSSCheck` for a selector that is not NULL, rows 3 to 6 (44 R212). -/
def stackSegmentReturnable (ss : Sel) (rpl : BitVec 2) (d : Word) : Prop :=
  4 ≤ ss.toNat
  ∧ selRpl ss = rpl
  ∧ d.getLsbD 44 = true ∧ d.getLsbD 43 = false ∧ d.getLsbD 41 = true
  ∧ d.extractLsb' 45 2 = rpl
  ∧ d.getLsbD 47 = true

/-- The condition of `IPCheck` for a code segment with descriptor `d` (44 R214). -/
def returnAddressOk (s : State) (d ip : Word) : Prop :=
  if s.eferLMA = true ∧ d.getLsbD 53 = true then canonical s ip = true
  else ip.toNat ≤ (descLimit d).toNat

/-- The execution is a protected-style return, to the same or an outer level, that has passed every check before those of
the shadow stack: it began in protected mode (the image not selecting virtual-8086 mode), compatibility or 64-bit mode with
NT = 0, its three pops, CS with descriptor `d`, SS where it is popped, and the return address are good (44 R220). -/
def reachesShadowChecks (n : OpSize) (s : State) (ip : Word) (cs : Sel) (d : Word) : Prop :=
  s.vmxNonRoot = false ∧ (n = .w64 → modeOf s = .long64)
  ∧ modeOf s ≠ .real ∧ modeOf s ≠ .v8086 ∧ s.eflags.NT = false
  ∧ (∃ w fl, popAt s n 0 = .ok ip ∧ popAt s n 1 = .ok w ∧ w.setWidth 16 = cs ∧ popAt s n 2 = .ok fl
    ∧ (modeOf s = .protectedMode → fl.getLsbD 17 = false ∨ s.cpl ≠ 0#2))
  ∧ readDescriptor s cs = .ok d ∧ codeSegmentReturnable s cs d
  ∧ (s.cpl < selRpl cs ∨ modeOf s = .long64 → ∃ sp ss newSS, popAt s n 3 = .ok sp ∧ popAt s n 4 = .ok ss
    ∧ returnSSCheck s (ss.setWidth 16) (selRpl cs) (segFromDescriptor cs d) = .ok newSS)
  ∧ returnAddressOk s d ip

/-- The shadow-stack checks of a protected-style return: those of an outer or of a same-privilege return (45 R254,
R257). -/
def shadowChecks (s : State) (cs : Sel) (newCS : SegReg) (ip : Word) : Check ShadowResult :=
  if s.cpl < selRpl cs then shadowOuterChecks s (selRpl cs) cs newCS ip else shadowSameChecks s cs newCS ip

/-- A TSS descriptor: bit 44 clear and bits 43:40 those of a 32-bit TSS, available or busy, or of a 16-bit one (42
R164). -/
def isTssDescriptor (d : Word) : Prop :=
  d.getLsbD 44 = false ∧ (d.extractLsb' 40 4 = 0b1001#4 ∨ d.extractLsb' 40 4 = 0b1011#4
    ∨ d.extractLsb' 40 4 = 0b0001#4 ∨ d.extractLsb' 40 4 = 0b0011#4)

/-- The condition of `TaskLinkCheck` for the descriptor it reads (42 R164). -/
def taskLinkOk (s : State) (link : Sel) (d : Word) : Prop :=
  link.getLsbD 2 = false
  ∧ 8 * (link.extractLsb' 3 13).toNat + 7 ≤ s.gdtr.limit.toNat
  ∧ isTssDescriptor d
  ∧ d.getLsbD 41 = true

end Sys2Proof.Machine
end

