-- ==== Sys2Proof/Certificates/Slice0/Obligations.lean ====
section
/-! DEFINITION. The statements for the provers. -/

open Sys2Proof Sys2Proof.Machine

/-! ### Decoding -/

/-- R90, R92 to R97, R99: the decoder gives back every well-formed instruction from its bytes. -/
def Obligations.DecodeInvertsEncode : Prop :=
  ∀ (c : DecodeCtx) (i : Instr) (rest : List Byte),
    i.wellFormed c = true → decode c (encode i ++ rest) = .ok (i, rest)

/-- R90, R99, R100: what the decoder accepts is the encoding of a well-formed instruction, and nothing else. -/
def Obligations.DecodeAcceptsOnlyEncodings : Prop :=
  ∀ (c : DecodeCtx) (bytes : List Byte) (i : Instr) (rest : List Byte),
    decode c bytes = .ok (i, rest) → i.wellFormed c = true ∧ bytes = encode i ++ rest

/-- 95_test_vectors.md E1 to E16 (decision D22 for the refused ones): words written out from the encodings. -/
def Obligations.SpecEncodingsDecode : Prop :=
  decode ⟨false, false⟩ [0xCF#8] = .ok (.iret ⟨[], none⟩, [])
  ∧ decode ⟨false, false⟩ [0x66#8, 0xCF#8] = .ok (.iretd66 ⟨[.opSize], none⟩, [])
  ∧ decode ⟨false, true⟩ [0xCF#8] = .ok (.iretd ⟨[], none⟩, [])
  ∧ decode ⟨false, true⟩ [0x66#8, 0xCF#8] = .ok (.iret66 ⟨[.opSize], none⟩, [])
  ∧ decode ⟨true, false⟩ [0xCF#8] = .ok (.iretd ⟨[], none⟩, [])
  ∧ decode ⟨true, false⟩ [0x66#8, 0xCF#8] = .ok (.iret66 ⟨[.opSize], none⟩, [])
  ∧ decode ⟨true, false⟩ [0x48#8, 0xCF#8] = .ok (.iretq ⟨[], some 8#4⟩, [])
  ∧ decode ⟨true, false⟩ [0x66#8, 0x48#8, 0xCF#8] = .ok (.iretq ⟨[.opSize], some 8#4⟩, [])
  ∧ decode ⟨true, false⟩ [0x40#8, 0xCF#8] = .ok (.iretd ⟨[], some 0#4⟩, [])
  ∧ decode ⟨false, false⟩ [0xF0#8, 0xCF#8] = .ok (.lockIret ⟨[.lock], none⟩, [])
  ∧ decode ⟨false, true⟩ [0x48#8, 0xCF#8] = .error (.otherOpcode 0x48#8)
  ∧ decode ⟨false, false⟩ [0x2E#8, 0xCF#8] = .error (.unsupportedPrefix 0x2E#8)

/-- R95: outside 64-bit mode no byte sequence means IRETQ; the byte 48H there is the opcode of another instruction. -/
def Obligations.IretqDecodesOnlyIn64BitMode : Prop :=
  ∀ (c : DecodeCtx) (bytes rest : List Byte) (p : Prefixes), c.mode64 = false →
    decode c bytes ≠ .ok (.iretq p, rest) ∧ decode c (0x48#8 :: bytes) = .error (.otherOpcode 0x48#8)

/-- The operand-size table of R94. The CS.DB default and the effect of 66H in it are the spec's own decision D4, not
S0's. -/
def Obligations.OperandSizeFollowsTheModeTable : Prop :=
  ∀ (c : DecodeCtx) (p : Prefixes),
    (c.mode64 = true → p.rexW = true → operandSize c p = .w64)
    ∧ (c.mode64 = true → p.rexW = false → operandSize c p = if p.hasOpSize then .w16 else .w32)
    ∧ (c.mode64 = false → c.csDB = true → operandSize c p = if p.hasOpSize then .w16 else .w32)
    ∧ (c.mode64 = false → c.csDB = false → operandSize c p = if p.hasOpSize then .w32 else .w16)

/-! ### The step -/

/-- A step executes the instruction decoded from the bytes at CS:RIP, in the context of R101, and adds nothing; and so
whenever the bytes of a well-formed instruction, however many prefix bytes it has (R90), stand at increasing offsets
from RIP, modulo 2^64 in 64-bit mode (the model's choice, log 36). The byte at an offset is read at the offset itself in
64-bit mode, at the base of CS plus the offset modulo 2^32 elsewhere (log 11); where the offset is not canonical, or
above the limit of CS, or `Translate` page-faults, none can be fetched (log 17). R41: the mode, in bits. -/
def Obligations.StepRunsTheDecodedInstruction : Prop :=
  ∀ (s : State),
    (∀ (i : Instr),
      (∀ rest : List Byte, decode (decodeCtx s) (fetchBytes s) = .ok (i, rest) → step s = exec i s)
      ∧ (i.wellFormed (decodeCtx s) = true →
        (∀ k (h : k < (encode i).length), fetchByte s (s.rip + BitVec.ofNat 64 k) = some (encode i)[k]) →
        step s = exec i s))
    ∧ (∀ ip : Word,
      let linear := if modeOf s = .long64 then ip else BitVec.ofNat 64 ((s.cs.base.toNat + ip.toNat) % 2 ^ 32)
      let inside := if modeOf s = .long64 then canonical s ip = true else ip.toNat ≤ s.cs.limit.toNat
      (¬ inside → fetchByte s ip = none)
      ∧ (∀ b, inside → loadByte s (.fetch s.cpl) linear = .ok b → fetchByte s ip = some b)
      ∧ (∀ e, loadByte s (.fetch s.cpl) linear = .error e → fetchByte s ip = none))
    ∧ decodeCtx s = ⟨decide (modeOf s = .long64), s.cs.DB⟩
    ∧ (modeOf s = .real ↔ s.cr0PE = false)
    ∧ (modeOf s = .v8086 ↔ s.cr0PE = true ∧ s.eferLMA = false ∧ s.eflags.VM = true)
    ∧ (modeOf s = .protectedMode ↔ s.cr0PE = true ∧ s.eferLMA = false ∧ s.eflags.VM = false)
    ∧ (modeOf s = .compat ↔ s.cr0PE = true ∧ s.eferLMA = true ∧ s.cs.L = false)
    ∧ (modeOf s = .long64 ↔ s.cr0PE = true ∧ s.eferLMA = true ∧ s.cs.L = true)

/-- R335: when CS:RIP does not hold an instruction in scope, the model refuses. -/
def Obligations.StepRefusesBytesOutOfScope : Prop :=
  ∀ (s : State) (e : DecodeRefusal),
    decode (decodeCtx s) (fetchBytes s) = .error e → step s = .refused (.decode e)

/-! ### LOCK -/

/-- R96, R117: CF with the LOCK byte F0H among its prefix bytes decodes to `lockIret`, which gives #UD in every mode,
before any stack access. #UD in real-address mode is the spec's decision D22; that prefix bytes may be repeated and
mixed, and that CR4.VME is not tested in virtual-8086 mode, are the model's choices (log 18, 21); that NMIs are unblocked
as the OPEN parameter NMI_UNBLOCK_ON_UD says is decision D27 (log 25). -/
def Obligations.LockRaisesInvalidOpcode : Prop :=
  ∀ (p : Prefixes) (s : State),
    (∀ (c : DecodeCtx) (rest : List Byte), 0xF0#8 ∈ p.legacy.map LegacyPrefix.byte → rexAllowed c p = true →
      decode c (p.encode ++ 0xCF#8 :: rest) = .ok (.lockIret p, rest))
    ∧ (s.vmxNonRoot = false → exec (.lockIret p) s =
        .fault (.exception .ud { s with nmiBlocked := s.nmiBlocked && !s.params.nmiUnblockOnUd }))

/-! ### Real-address mode -/

/-- R141: real-address mode, operand size 16 (iret, iret66). Only `G_LOW` of the flags changes. -/
def Obligations.RealModeReturn16Completes : Prop :=
  ∀ (i : Instr) (s : State) (ip cs fl : Word),
    i.opSize = some .w16 → s.vmxNonRoot = false → s.cr0PE = false →
    popAt s .w16 0 = .ok ip → popAt s .w16 1 = .ok cs → popAt s .w16 2 = .ok fl →
    ip.toNat ≤ s.cs.limit.toNat →
    exec i s = .next { s with
      rip := ip
      cs := { s.cs with sel := cs.setWidth 16, base := (cs.setWidth 16 : Sel).setWidth 64 <<< 4, valid := true }
      eflags := { s.eflags with
        CF := fl.getLsbD 0, PF := fl.getLsbD 2, AF := fl.getLsbD 4, ZF := fl.getLsbD 6, SF := fl.getLsbD 7,
        TF := fl.getLsbD 8, IF := fl.getLsbD 9, DF := fl.getLsbD 10, OF := fl.getLsbD 11,
        IOPL := fl.extractLsb' 12 2, NT := fl.getLsbD 14 }
      rsp := stackPointerAdvance s (slotOffset s .w16 3)
      nmiBlocked := false
      freeIdx := s.freeIdx + 1 }

/-- R140: real-address mode, operand size 32 (iretd, iretd66). `G_REAL` comes from the image; VM, VIF, VIP keep
their values. -/
def Obligations.RealModeReturn32Completes : Prop :=
  ∀ (i : Instr) (s : State) (ip cs fl : Word),
    i.opSize = some .w32 → s.vmxNonRoot = false → s.cr0PE = false →
    popAt s .w32 0 = .ok ip → popAt s .w32 1 = .ok cs → popAt s .w32 2 = .ok fl →
    ip.toNat ≤ s.cs.limit.toNat →
    exec i s = .next { s with
      rip := ip
      cs := { s.cs with sel := cs.setWidth 16, base := (cs.setWidth 16 : Sel).setWidth 64 <<< 4, valid := true }
      eflags :=
        { CF := fl.getLsbD 0, PF := fl.getLsbD 2, AF := fl.getLsbD 4, ZF := fl.getLsbD 6, SF := fl.getLsbD 7,
          TF := fl.getLsbD 8, IF := fl.getLsbD 9, DF := fl.getLsbD 10, OF := fl.getLsbD 11,
          IOPL := fl.extractLsb' 12 2, NT := fl.getLsbD 14, RF := fl.getLsbD 16, VM := s.eflags.VM,
          AC := fl.getLsbD 18, VIF := s.eflags.VIF, VIP := s.eflags.VIP, ID := fl.getLsbD 21 }
      rsp := stackPointerAdvance s (slotOffset s .w32 3)
      nmiBlocked := false
      freeIdx := s.freeIdx + 1 }

/-- R143, R282: real-address mode faults, #SS at the first, second or third pop, the first that fails, and #GP after the
three pops, have no error code and leave the state. -/
def Obligations.RealModeFaultsCarryNoErrorCode : Prop :=
  ∀ (i : Instr) (n : OpSize) (s : State),
    i.opSize = some n → n ≠ .w64 → s.vmxNonRoot = false → s.cr0PE = false →
    (∀ k, k < 3 → (∀ j, j < k → stackInBounds s (slotOffset s n j) n.bytes = true) →
      stackInBounds s (slotOffset s n k) n.bytes = false →
      exec i s = .fault (.exception (.ss none) { s with nmiBlocked := false }))
    ∧ (∀ ip cs fl : Word, popAt s n 0 = .ok ip → popAt s n 1 = .ok cs → popAt s n 2 = .ok fl →
      s.cs.limit.toNat < ip.toNat →
      exec i s = .fault (.exception (.gp none) { s with nmiBlocked := false }))

/-! ### Virtual-8086 mode -/

/-- R146, R147: return within virtual-8086 mode, operand size 16 (iret, iret66). IOPL and the fields above bit 15
keep their values. -/
def Obligations.Virtual8086Return16Completes : Prop :=
  ∀ (i : Instr) (s : State) (ip cs fl : Word),
    i.opSize = some .w16 → s.vmxNonRoot = false → modeOf s = .v8086 → s.cr4VME = false → s.eflags.IOPL = 3#2 →
    popAt s .w16 0 = .ok ip → popAt s .w16 1 = .ok cs → popAt s .w16 2 = .ok fl →
    exec i s = .next { s with
      rip := ip
      cs :=
        { sel := cs.setWidth 16, valid := true, base := (cs.setWidth 16 : Sel).setWidth 64 <<< 4, limit := 0xFFFF#32,
          dpl := 3#2, code := false, conforming := false, writable := true, expandDown := false, L := false,
          DB := false, present := true }
      eflags := { s.eflags with
        CF := fl.getLsbD 0, PF := fl.getLsbD 2, AF := fl.getLsbD 4, ZF := fl.getLsbD 6, SF := fl.getLsbD 7,
        TF := fl.getLsbD 8, IF := fl.getLsbD 9, DF := fl.getLsbD 10, OF := fl.getLsbD 11, NT := fl.getLsbD 14 }
      rsp := stackPointerAdvance s (slotOffset s .w16 3)
      nmiBlocked := false
      freeIdx := s.freeIdx + 1 }

/-- R145, R147: return within virtual-8086 mode, operand size 32 (iretd, iretd66). VM, IOPL, VIP and VIF keep
their values. -/
def Obligations.Virtual8086Return32Completes : Prop :=
  ∀ (i : Instr) (s : State) (ip cs fl : Word),
    i.opSize = some .w32 → s.vmxNonRoot = false → modeOf s = .v8086 → s.cr4VME = false → s.eflags.IOPL = 3#2 →
    popAt s .w32 0 = .ok ip → popAt s .w32 1 = .ok cs → popAt s .w32 2 = .ok fl → ip.toNat ≤ 0xFFFF →
    exec i s = .next { s with
      rip := ip
      cs :=
        { sel := cs.setWidth 16, valid := true, base := (cs.setWidth 16 : Sel).setWidth 64 <<< 4, limit := 0xFFFF#32,
          dpl := 3#2, code := false, conforming := false, writable := true, expandDown := false, L := false,
          DB := false, present := true }
      eflags := { s.eflags with
        CF := fl.getLsbD 0, PF := fl.getLsbD 2, AF := fl.getLsbD 4, ZF := fl.getLsbD 6, SF := fl.getLsbD 7,
        TF := fl.getLsbD 8, IF := fl.getLsbD 9, DF := fl.getLsbD 10, OF := fl.getLsbD 11, NT := fl.getLsbD 14,
        RF := fl.getLsbD 16, AC := fl.getLsbD 18, ID := fl.getLsbD 21 }
      rsp := stackPointerAdvance s (slotOffset s .w32 3)
      nmiBlocked := false
      freeIdx := s.freeIdx + 1 }

/-- R144: in virtual-8086 mode with IOPL below 3 nothing is popped and #GP(0) is raised. R145, R283: with IOPL 3, a return
within virtual-8086 mode whose three pops answer and whose instruction pointer is above FFFFH raises #GP(0). -/
def Obligations.Virtual8086IoplGateFaults : Prop :=
  ∀ (i : Instr) (n : OpSize) (s : State),
    i.opSize = some n → n ≠ .w64 → s.vmxNonRoot = false → modeOf s = .v8086 → s.cr4VME = false →
    (s.eflags.IOPL ≠ 3#2 →
      exec i s = .fault (.exception (.gp (some 0#32)) { s with nmiBlocked := false }))
    ∧ (∀ ip cs fl : Word, s.eflags.IOPL = 3#2 →
      popAt s n 0 = .ok ip → popAt s n 1 = .ok cs → popAt s n 2 = .ok fl → 0xFFFF < ip.toNat →
      exec i s = .fault (.exception (.gp (some 0#32)) { s with nmiBlocked := false }))

/-- R168, R169, R258: the return to virtual-8086 mode (iretd, iretd66), with or without a supervisor shadow stack;
SSP stays, and memory changes by the token access alone. Every flag comes from its bit of the image (R23), and each
segment register is loaded by `V86SegLoad` (R147). -/
def Obligations.ReturnToVirtual8086Completes : Prop :=
  ∀ (i : Instr) (s u : State) (ip cs fl sp ss es ds fs gs : Word),
    i.opSize = some .w32 → s.vmxNonRoot = false → modeOf s = .protectedMode → s.eflags.NT = false → s.cpl = 0#2 →
    popAt s .w32 0 = .ok ip → popAt s .w32 1 = .ok cs → popAt s .w32 2 = .ok fl → fl.getLsbD 17 = true →
    ¬ (s.cr4CET = true ∧ (s.uCet.getLsbD 2 = true ∨ s.uCet.getLsbD 0 = true)) →
    ip.toNat ≤ 0xFFFF →
    popAt s .w32 3 = .ok sp → popAt s .w32 4 = .ok ss → popAt s .w32 5 = .ok es → popAt s .w32 6 = .ok ds →
    popAt s .w32 7 = .ok fs → popAt s .w32 8 = .ok gs →
    (shadowStackEnabled s 0#2 = true → s.ssp.toNat % 8 = 0) →
    (if shadowStackEnabled s 0#2 then tokenFree s s.ssp else .ok s) = .ok u →
    let seg : Sel → SegReg := fun sel =>
      { sel := sel, valid := true, base := sel.setWidth 64 <<< 4, limit := 0xFFFF#32, dpl := 3#2, code := false,
        conforming := false, writable := true, expandDown := false, L := false, DB := false, present := true }
    exec i s = .next { s with
      eflags :=
        { CF := fl.getLsbD 0, PF := fl.getLsbD 2, AF := fl.getLsbD 4, ZF := fl.getLsbD 6, SF := fl.getLsbD 7,
          TF := fl.getLsbD 8, IF := fl.getLsbD 9, DF := fl.getLsbD 10, OF := fl.getLsbD 11,
          IOPL := fl.extractLsb' 12 2, NT := fl.getLsbD 14, RF := fl.getLsbD 16, VM := true,
          AC := fl.getLsbD 18, VIF := fl.getLsbD 19, VIP := fl.getLsbD 20, ID := fl.getLsbD 21 }
      rip := ip
      cs := seg (cs.setWidth 16)
      rsp := ⟨Config.freeRspHigh s.freeIdx, sp.setWidth 32⟩
      ss := seg (ss.setWidth 16)
      es := seg (es.setWidth 16)
      ds := seg (ds.setWidth 16)
      fs := seg (fs.setWidth 16)
      gs := seg (gs.setWidth 16)
      cpl := 3#2
      mem := u.mem
      nmiBlocked := false
      freeIdx := s.freeIdx + 1 }

/-- R166, R167, R258: the CET gate and the instruction-pointer check of a return to virtual-8086 mode raise #GP(0) after
the three pops; after the six further pops an SSP that is not 8-byte aligned raises #CP when a supervisor shadow stack
is in use. -/
def Obligations.ReturnToVirtual8086GatesFault : Prop :=
  ∀ (i : Instr) (s : State) (ip cs fl : Word),
    i.opSize = some .w32 → s.vmxNonRoot = false → modeOf s = .protectedMode → s.eflags.NT = false → s.cpl = 0#2 →
    popAt s .w32 0 = .ok ip → popAt s .w32 1 = .ok cs → popAt s .w32 2 = .ok fl → fl.getLsbD 17 = true →
    let gate := s.cr4CET = true ∧ (s.uCet.getLsbD 2 = true ∨ s.uCet.getLsbD 0 = true)
    (gate ∨ 0xFFFF < ip.toNat →
      exec i s = .fault (.exception (.gp (some 0#32)) { s with nmiBlocked := false }))
    ∧ (¬ gate → ip.toNat ≤ 0xFFFF → (∀ k, 3 ≤ k → k < 9 → ∃ v, popAt s .w32 k = .ok v) →
      shadowStackEnabled s 0#2 = true → s.ssp.toNat % 8 ≠ 0 →
      exec i s = .fault (.exception .cp { s with nmiBlocked := false }))

/-! ### Protected-style returns -/

/-- R219, R172, R194: the same-privilege return of three items, from protected or compatibility mode (iret, iret66,
iretd, iretd66). Memory is what the stores of the Commit leave: the accessed bit of CS (R216), then the token, where one is
to be freed (R257); their order is the model's choice (log 16). -/
def Obligations.SamePrivilegeReturnCompletes : Prop :=
  ∀ (i : Instr) (n : OpSize) (s u1 u : State) (ip cs fl d : Word) (sh : ShadowResult),
    i.opSize = some n → n ≠ .w64 → s.vmxNonRoot = false →
    modeOf s = .protectedMode ∨ modeOf s = .compat → s.eflags.NT = false →
    popAt s n 0 = .ok ip → popAt s n 1 = .ok cs → popAt s n 2 = .ok fl →
    (modeOf s = .protectedMode → fl.getLsbD 17 = false ∨ s.cpl ≠ 0#2) →
    readDescriptor s (cs.setWidth 16) = .ok d → codeSegmentReturnable s (cs.setWidth 16) d →
    selRpl (cs.setWidth 16) = s.cpl → returnAddressOk s d ip →
    shadowSameChecks s (cs.setWidth 16) (segFromDescriptor (cs.setWidth 16) d) ip = .ok sh →
    markAccessed s (loadSegment s (cs.setWidth 16) d).mark = .ok u1 →
    (match sh.token with | none => Except.ok u1 | some la => tokenFree u1 la) = .ok u →
    exec i s = .next { s with
      eflags := writeFlagsProt s.eflags (Eflags.ofImage fl) n s.cpl
      rip := ip
      cs := segFromDescriptor (cs.setWidth 16) d
      rsp := stackPointerAdvance s (slotOffset s n 3)
      ssp := sh.ssp
      mem := u.mem
      nmiBlocked := false
      freeIdx := s.freeIdx + 1 }

/-- R193, R219: the same-privilege return begun in 64-bit mode pops five items (iret66, iretd, iretq; every
constructor with an operand size). Memory is what the stores of the Commit leave: the accessed bit of CS, that of SS (R216),
then the token, where one is to be freed (R257); their order is the model's choice (log 16). -/
def Obligations.SamePrivilegeReturnFrom64BitModeCompletes : Prop :=
  ∀ (i : Instr) (n : OpSize) (s u1 u2 u : State) (ip cs fl sp ss d : Word) (newSS : LoadedSeg)
    (sh : ShadowResult),
    i.opSize = some n → s.vmxNonRoot = false → modeOf s = .long64 → s.eflags.NT = false →
    popAt s n 0 = .ok ip → popAt s n 1 = .ok cs → popAt s n 2 = .ok fl →
    readDescriptor s (cs.setWidth 16) = .ok d → codeSegmentReturnable s (cs.setWidth 16) d →
    selRpl (cs.setWidth 16) = s.cpl →
    popAt s n 3 = .ok sp → popAt s n 4 = .ok ss →
    returnSSCheck s (ss.setWidth 16) s.cpl (segFromDescriptor (cs.setWidth 16) d) = .ok newSS →
    returnAddressOk s d ip →
    shadowSameChecks s (cs.setWidth 16) (segFromDescriptor (cs.setWidth 16) d) ip = .ok sh →
    markAccessed s (loadSegment s (cs.setWidth 16) d).mark = .ok u1 → markAccessed u1 newSS.mark = .ok u2 →
    (match sh.token with | none => Except.ok u2 | some la => tokenFree u2 la) = .ok u →
    exec i s = .next { s with
      eflags := writeFlagsProt s.eflags (Eflags.ofImage fl) n s.cpl
      rip := ip
      cs := segFromDescriptor (cs.setWidth 16) d
      rsp := if n = .w64 then StackReg.ofWord sp else ⟨0#32, sp.setWidth 32⟩
      ss := newSS.seg
      ssp := sh.ssp
      mem := u.mem
      nmiBlocked := false
      freeIdx := s.freeIdx + 1 }

/-- R215, R211, R217, R21: the return to an outer privilege level, from protected, compatibility or 64-bit mode (every
constructor with an operand size; iretq from 64-bit mode). The stack pointer is the popped one: all of RSP for size 64, else
ESP, with the upper half of RSP 0 in IA-32e mode and a free value in a legacy mode (log 7). Memory is what the stores of the
Commit leave: the accessed bit of CS, that of SS (R216), then the token, where one is to be freed (R256); their order is the
model's choice (log 16). -/
def Obligations.OuterPrivilegeReturnCompletes : Prop :=
  ∀ (i : Instr) (n : OpSize) (s u1 u2 u : State) (ip cs fl sp ss d : Word) (newSS : LoadedSeg)
    (sh : ShadowResult),
    i.opSize = some n → (n = .w64 → modeOf s = .long64) → s.vmxNonRoot = false →
    modeOf s ≠ .real → modeOf s ≠ .v8086 → s.eflags.NT = false →
    popAt s n 0 = .ok ip → popAt s n 1 = .ok cs → popAt s n 2 = .ok fl →
    (modeOf s = .protectedMode → fl.getLsbD 17 = false ∨ s.cpl ≠ 0#2) →
    readDescriptor s (cs.setWidth 16) = .ok d → codeSegmentReturnable s (cs.setWidth 16) d →
    s.cpl < selRpl (cs.setWidth 16) →
    popAt s n 3 = .ok sp → popAt s n 4 = .ok ss →
    returnSSCheck s (ss.setWidth 16) (selRpl (cs.setWidth 16)) (segFromDescriptor (cs.setWidth 16) d) = .ok newSS →
    returnAddressOk s d ip →
    shadowOuterChecks s (selRpl (cs.setWidth 16)) (cs.setWidth 16) (segFromDescriptor (cs.setWidth 16) d) ip
      = .ok sh →
    markAccessed s (loadSegment s (cs.setWidth 16) d).mark = .ok u1 → markAccessed u1 newSS.mark = .ok u2 →
    (match sh.token with | none => Except.ok u2 | some la => tokenFree u2 la) = .ok u →
    exec i s = .next { s with
      eflags := writeFlagsProt s.eflags (Eflags.ofImage fl) n s.cpl
      rip := ip
      cs := segFromDescriptor (cs.setWidth 16) d
      cpl := selRpl (cs.setWidth 16)
      rsp := if n = .w64 then ⟨sp.extractLsb' 32 32, sp.setWidth 32⟩
        else ⟨if s.eferLMA = true then 0#32 else Config.freeRspHigh s.freeIdx, sp.setWidth 32⟩
      ss := newSS.seg
      ssp := sh.ssp
      es := nullifyIfInaccessible s.freeIdx .es s.es (selRpl (cs.setWidth 16))
      fs := nullifyIfInaccessible s.freeIdx .fs s.fs (selRpl (cs.setWidth 16))
      gs := nullifyIfInaccessible s.freeIdx .gs s.gs (selRpl (cs.setWidth 16))
      ds := nullifyIfInaccessible s.freeIdx .ds s.ds (selRpl (cs.setWidth 16))
      mem := u.mem
      nmiBlocked := false
      freeIdx := s.freeIdx + 1 }

/-- R112, R215, R217, R219: IRETQ with CR4.CET = 0 and no accessed bit to write, SS not NULL: it completes, to the
same or to an outer level, and stores nothing. -/
def Obligations.IretqWithoutCetCompletes : Prop :=
  ∀ (p : Prefixes) (s : State) (ip cs fl sp ss d e : Word),
    s.vmxNonRoot = false → modeOf s = .long64 → s.eflags.NT = false → s.cr4CET = false →
    popAt s .w64 0 = .ok ip → popAt s .w64 1 = .ok cs → popAt s .w64 2 = .ok fl → popAt s .w64 3 = .ok sp →
    popAt s .w64 4 = .ok ss →
    readDescriptor s (cs.setWidth 16) = .ok d → codeSegmentReturnable s (cs.setWidth 16) d →
    readDescriptor s (ss.setWidth 16) = .ok e →
    stackSegmentReturnable (ss.setWidth 16) (selRpl (cs.setWidth 16)) e →
    returnAddressOk s d ip →
    (s.params.descAccessedWriteback = true → d.getLsbD 40 = true ∧ e.getLsbD 40 = true) →
    exec (.iretq p) s = .next { s with
      eflags := writeFlagsProt s.eflags (Eflags.ofImage fl) .w64 s.cpl
      rip := ip
      cs := segFromDescriptor (cs.setWidth 16) d
      cpl := selRpl (cs.setWidth 16)
      rsp := StackReg.ofWord sp
      ss := segFromDescriptor (ss.setWidth 16) e
      es := if s.cpl < selRpl (cs.setWidth 16) then
          nullifyIfInaccessible s.freeIdx .es s.es (selRpl (cs.setWidth 16)) else s.es
      fs := if s.cpl < selRpl (cs.setWidth 16) then
          nullifyIfInaccessible s.freeIdx .fs s.fs (selRpl (cs.setWidth 16)) else s.fs
      gs := if s.cpl < selRpl (cs.setWidth 16) then
          nullifyIfInaccessible s.freeIdx .gs s.gs (selRpl (cs.setWidth 16)) else s.gs
      ds := if s.cpl < selRpl (cs.setWidth 16) then
          nullifyIfInaccessible s.freeIdx .ds s.ds (selRpl (cs.setWidth 16)) else s.ds
      nmiBlocked := false
      freeIdx := s.freeIdx + 1 }

/-- R214, R112: a return begun in protected, compatibility or 64-bit mode, to the same or an outer level, whose
instruction pointer is not accepted (above the limit of the new CS, or not canonical when the new mode is 64-bit mode)
raises #GP(0) and commits nothing. -/
def Obligations.UnacceptedReturnAddressFaults : Prop :=
  ∀ (i : Instr) (n : OpSize) (s : State) (ip cs fl d : Word),
    i.opSize = some n → (n = .w64 → modeOf s = .long64) → s.vmxNonRoot = false →
    modeOf s ≠ .real → modeOf s ≠ .v8086 → s.eflags.NT = false →
    popAt s n 0 = .ok ip → popAt s n 1 = .ok cs → popAt s n 2 = .ok fl →
    (modeOf s = .protectedMode → fl.getLsbD 17 = false ∨ s.cpl ≠ 0#2) →
    readDescriptor s (cs.setWidth 16) = .ok d → codeSegmentReturnable s (cs.setWidth 16) d →
    (s.cpl < selRpl (cs.setWidth 16) ∨ modeOf s = .long64 → ∃ sp ss newSS,
      popAt s n 3 = .ok sp ∧ popAt s n 4 = .ok ss ∧
      returnSSCheck s (ss.setWidth 16) (selRpl (cs.setWidth 16)) (segFromDescriptor (cs.setWidth 16) d) = .ok newSS) →
    ¬ returnAddressOk s d ip →
    exec i s = .fault (.exception (.gp (some 0#32)) { s with nmiBlocked := false })

/-- R190: with NT = 1 in IA-32e mode #GP(0) is raised before any pop. -/
def Obligations.NestedTaskFlagFaultsInIa32eMode : Prop :=
  ∀ (i : Instr) (n : OpSize) (s : State),
    i.opSize = some n → (n = .w64 → modeOf s = .long64) → s.vmxNonRoot = false →
    s.cr0PE = true → s.eferLMA = true → s.eflags.NT = true →
    exec i s = .fault (.exception (.gp (some 0#32)) { s with nmiBlocked := false })

/-! ### Task return -/

/-- R163: a task return with `SwitchTasks` given (iret, iret66, iretd, iretd66): the new task's state, with the
busy bit of the outgoing task's descriptor cleared. The model's choices: `SwitchTasks` is a table (log 5); the bit is
cleared after the switch's stores, in the new task's memory and translation, and what `TaskImage` does not hold stays
(log 23); SSP is the new task's only where shadow stacks are enabled at the old level or at the new one (R39), and that the
new level is judged under the new task's EFLAGS is the model's choice too, which neither R39 nor R250 says (log 23). -/
def Obligations.TaskReturnCompletes : Prop :=
  ∀ (i : Instr) (n : OpSize) (s : State) (link d pa : Word) (t : TaskImage),
    i.opSize = some n → n ≠ .w64 → s.vmxNonRoot = false → modeOf s = .protectedMode → s.eflags.NT = true →
    loadV s .supervisorRead s.tr.base 2 = .ok link →
    loadV s .supervisorRead (tssDescriptorAddr s (link.setWidth 16)) 8 = .ok d → taskLinkOk s (link.setWidth 16) d →
    lookupTask (link.setWidth 16) (s.rip + BitVec.ofNat 64 i.length) s.tasks = some (.switched t) →
    let stored := t.stores.foldl (fun m c => m.write c.1.toNat c.2) s.mem
    let entered : State := { s with
      rsp := t.rsp, rip := t.rip, eflags := t.eflags
      cs := t.cs, ss := t.ss, ds := t.ds, es := t.es, fs := t.fs, gs := t.gs
      cpl := t.cpl, ldtr := t.ldtr, tr := t.tr, cr3 := t.cr3
      ssp := if shadowStackEnabled s s.cpl = true ∨ shadowStackEnabled { s with eflags := t.eflags } t.cpl = true
        then t.ssp else s.ssp
      translation := t.translation
      mem := stored }
    Machine.translate entered .supervisorWrite (tssDescriptorAddr s s.tr.sel + 5#64) = .ok pa →
    (t.rip.setWidth 32).toNat ≤ t.cs.limit.toNat →
    exec i s = .next { entered with
      mem := stored.write pa.toNat (stored.read pa.toNat &&& 0xFD#8)
      nmiBlocked := false
      freeIdx := s.freeIdx + 1 }

/-- R165: when the incoming EIP is not within the incoming CS limit, #GP(0) is raised with the task switch already
committed; a page fault of the busy-bit write before that is #PF and leaves the old task (R284, R288), and so does an
exception that `SwitchTasks` raises (R163). The model's choices: `SwitchTasks` is a table (log 5); the bit is cleared after
the switch's stores, in the new task's memory and translation, NMIs are unblocked in the task that is left, and which task an
exception of the switch or a page fault of the bit leaves (log 15, 23). -/
def Obligations.TaskReturnLateFaultKeepsTheSwitch : Prop :=
  ∀ (i : Instr) (n : OpSize) (s : State) (link d : Word),
    i.opSize = some n → n ≠ .w64 → s.vmxNonRoot = false → modeOf s = .protectedMode → s.eflags.NT = true →
    loadV s .supervisorRead s.tr.base 2 = .ok link →
    loadV s .supervisorRead (tssDescriptorAddr s (link.setWidth 16)) 8 = .ok d → taskLinkOk s (link.setWidth 16) d →
    let answer := lookupTask (link.setWidth 16) (s.rip + BitVec.ofNat 64 i.length) s.tasks
    (∀ t, answer = some (.switched t) →
      let busy := translate (enterTask s t) .supervisorWrite (tssDescriptorAddr s s.tr.sel + 5#64)
      (∀ pa, busy = .ok pa → t.cs.limit.toNat < (t.rip.setWidth 32).toNat →
        exec i s = .fault (.exception (.gp (some 0#32)) { enterTask s t with
          mem := (storeCells s.mem t.stores).write pa.toNat
            ((storeCells s.mem t.stores).read pa.toNat &&& 0xFD#8)
          nmiBlocked := false }))
      ∧ (∀ code la, busy = .error (.exc (.pf code la)) →
        exec i s = .fault (.exception (.pf code la) { s with nmiBlocked := false })))
    ∧ (∀ x, answer = some (.raised x) →
      exec i s = .fault (.exception x { s with nmiBlocked := false }))

/-- R6, R163: without `SwitchTasks` the model refuses a task return whose back link is good; that a bad one raises first
all the same is the model's choice (log 5). -/
def Obligations.TaskReturnRefusedWithoutSwitchTasks : Prop :=
  ∀ (i : Instr) (n : OpSize) (s : State) (link d : Word),
    i.opSize = some n → n ≠ .w64 → s.vmxNonRoot = false → modeOf s = .protectedMode → s.eflags.NT = true →
    loadV s .supervisorRead s.tr.base 2 = .ok link →
    loadV s .supervisorRead (tssDescriptorAddr s (link.setWidth 16)) 8 = .ok d → taskLinkOk s (link.setWidth 16) d →
    (∀ r ∈ s.tasks, ¬ (r.link = link.setWidth 16 ∧ r.returnIp = s.rip + BitVec.ofNat 64 i.length)) →
    exec i s = .refused .switchTasksAbsent

/-- R164: a back link that is local, outside the GDT, not a TSS (bit 44 clear and bits 43:40 one of 1001, 1011, 0001, 0011)
or not busy raises #GP(selector); its descriptor stands at the base of the GDT plus 8 times its index; a page fault of the read
of the back link, or of the descriptor of a link that is not local and inside the GDT, is the fault of the execution (R284).
So whether or not `SwitchTasks` is given (log 5). -/
def Obligations.BadBackLinkFaults : Prop :=
  ∀ (i : Instr) (n : OpSize) (s : State),
    i.opSize = some n → n ≠ .w64 → s.vmxNonRoot = false → modeOf s = .protectedMode → s.eflags.NT = true →
    (∀ sel : Sel, tssDescriptorAddr s sel = s.gdtr.base + BitVec.ofNat 64 (8 * (sel.extractLsb' 3 13).toNat))
    ∧ (∀ x, loadV s .supervisorRead s.tr.base 2 = .error (.exc x) →
      exec i s = .fault (.exception x { s with nmiBlocked := false }))
    ∧ (∀ link, loadV s .supervisorRead s.tr.base 2 = .ok link →
      let descriptor := loadV s .supervisorRead (tssDescriptorAddr s (link.setWidth 16)) 8
      (link.getLsbD 2 = true ∨ s.gdtr.limit.toNat < 8 * (link.extractLsb' 3 13).toNat + 7
        ∨ (∃ d, descriptor = .ok d ∧ (¬ isTssDescriptor d ∨ d.getLsbD 41 = false)) →
        exec i s = .fault (.exception (.gp (some ((link.setWidth 16 &&& 0xFFFC#16).setWidth 32)))
          { s with nmiBlocked := false }))
      ∧ (∀ x, link.getLsbD 2 = false → 8 * (link.extractLsb' 3 13).toNat + 7 ≤ s.gdtr.limit.toNat →
        descriptor = .error (.exc x) → exec i s = .fault (.exception x { s with nmiBlocked := false })))

/-! ### Every execution -/

/-- R117: every execution unblocks NMIs, one that faults too; after the #UD of LOCK the parameter NMI_UNBLOCK_ON_UD
decides. -/
def Obligations.EveryExecutionUnblocksNmi : Prop :=
  ∀ (i : Instr) (s : State),
    (∀ t, exec i s = .next t → t.nmiBlocked = false)
    ∧ (∀ n x left, i.opSize = some n → exec i s = .fault (.exception x left) → left.nmiBlocked = false)
    ∧ (∀ x left, i.opSize = none → exec i s = .fault (.exception x left) →
        left.nmiBlocked = (s.nmiBlocked && !s.params.nmiUnblockOnUd))

/-- R288: a fault leaves every piece of state as before, except that NMIs are unblocked, and except the late #GP(0) of
a task return, which leaves the incoming task's state with the busy bit cleared (R165). The general statement is the
spec's decision D2; that an exception of the switch leaves the old task, and where the busy bit is cleared, are the
model's choices (log 23). LOCK's #UD is `LockRaisesInvalidOpcode`. R280, R281: the vector and the error code of each
exception; those of another exception of a task switch are its own (log 5). -/
def Obligations.FaultsArePrecise : Prop :=
  (∀ (i : Instr) (n : OpSize) (s left : State) (x : Exception),
    i.opSize = some n → exec i s = .fault (.exception x left) →
    left = { s with nmiBlocked := false }
    ∨ (takesTaskReturn s = true ∧ x = .gp (some 0#32) ∧ ∃ link t pa,
        checkedLink s = .ok link
        ∧ lookupTask link (s.rip + BitVec.ofNat 64 i.length) s.tasks = some (.switched t)
        ∧ translate (enterTask s t) .supervisorWrite (tssDescriptorAddr s s.tr.sel + 5#64) = .ok pa
        ∧ t.cs.limit.toNat < (t.rip.setWidth 32).toNat
        ∧ left = { enterTask s t with
            mem := (storeCells s.mem t.stores).write pa.toNat
              ((storeCells s.mem t.stores).read pa.toNat &&& 0xFD#8)
            nmiBlocked := false }))
  ∧ (Exception.ud.vector = 6 ∧ Exception.ud.errorCode = none)
  ∧ (∀ e, (Exception.np e).vector = 11 ∧ (Exception.np e).errorCode = some e)
  ∧ (∀ e, (Exception.ss e).vector = 12 ∧ (Exception.ss e).errorCode = e)
  ∧ (∀ e, (Exception.gp e).vector = 13 ∧ (Exception.gp e).errorCode = e)
  ∧ (∀ e la, (Exception.pf e la).vector = 14 ∧ (Exception.pf e la).errorCode = some e)
  ∧ (Exception.ac.vector = 17 ∧ Exception.ac.errorCode = some 0#32)
  ∧ (Exception.cp.vector = 21 ∧ Exception.cp.errorCode = some 2#32)
  ∧ (∀ v e, (Exception.taskSwitch v e).vector = v.toNat ∧ (Exception.taskSwitch v e).errorCode = e)

/-! ### Segment checks -/

/-- R210, R216: `ReturnCSCheck` passes exactly when the descriptor is read and every row holds. R35: the RPL that the
checks of this file compare is bits 1:0 of the selector. -/
def Obligations.CodeSegmentCheckPassesExactly : Prop :=
  (∀ sel : Sel, (selRpl sel).toNat = sel.toNat % 4)
  ∧ ∀ (s : State) (cs : Sel) (l : LoadedSeg),
    returnCSCheck s cs = .ok l ↔
      ∃ d, readDescriptor s cs = .ok d ∧ codeSegmentReturnable s cs d ∧ l = loadSegment s cs d

/-- R210, R281: the exception of each failing row of `ReturnCSCheck`, not-present last; and in protected, compatibility
and 64-bit mode the exception of the check, a failing descriptor read's among them, is the fault of the execution. The
order of the rows is the spec's decision D8. -/
def Obligations.CodeSegmentCheckFaultsByRow : Prop :=
  ∀ (s : State) (cs : Sel),
    (cs.toNat < 4 → returnCSCheck s cs = .error (.exc (.gp (some 0#32))))
    ∧ (∀ e, 4 ≤ cs.toNat → readDescriptor s cs = .error e → returnCSCheck s cs = .error e)
    ∧ (∀ d, 4 ≤ cs.toNat → readDescriptor s cs = .ok d →
      ((d.getLsbD 44 = false ∨ d.getLsbD 43 = false ∨ selRpl cs < s.cpl
        ∨ (d.getLsbD 42 = true ∧ selRpl cs < d.extractLsb' 45 2)
        ∨ (d.getLsbD 42 = false ∧ d.extractLsb' 45 2 ≠ selRpl cs)
        ∨ (s.eferLMA = true ∧ d.getLsbD 53 = true ∧ d.getLsbD 54 = true) →
          returnCSCheck s cs = .error (.exc (.gp (some ((cs &&& 0xFFFC#16).setWidth 32)))))
      ∧ (codeDescriptorRows s cs d = true → d.getLsbD 47 = false →
          returnCSCheck s cs = .error (.exc (.np ((cs &&& 0xFFFC#16).setWidth 32))))))
    ∧ (∀ (i : Instr) (n : OpSize) (ip w fl : Word) (x : Exception),
      i.opSize = some n → (n = .w64 → modeOf s = .long64) → s.vmxNonRoot = false →
      modeOf s ≠ .real → modeOf s ≠ .v8086 → s.eflags.NT = false →
      popAt s n 0 = .ok ip → popAt s n 1 = .ok w → popAt s n 2 = .ok fl → w.setWidth 16 = cs →
      (modeOf s = .protectedMode → fl.getLsbD 17 = false ∨ s.cpl ≠ 0#2) →
      returnCSCheck s cs = .error (.exc x) →
      exec i s = .fault (.exception x { s with nmiBlocked := false }))

/-- R212, R216: `ReturnSSCheck` passes a selector that is not NULL exactly when every row holds. -/
def Obligations.StackSegmentCheckPassesExactly : Prop :=
  ∀ (s : State) (ss : Sel) (rpl : BitVec 2) (newCS : SegReg) (l : LoadedSeg), 4 ≤ ss.toNat →
    (returnSSCheck s ss rpl newCS = .ok l ↔
      ∃ d, readDescriptor s ss = .ok d ∧ stackSegmentReturnable ss rpl d ∧ l = loadSegment s ss d)

/-- R212, R281: the exception of each failing row of `ReturnSSCheck`, a stack segment that is not present giving
#SS(0); and on a return that pops SS (to an outer level, or begun in 64-bit mode) the exception of the check, a NULL
selector's and a failing descriptor read's among them, is the fault of the execution. The order of the rows is the
spec's decision D8. -/
def Obligations.StackSegmentCheckFaultsByRow : Prop :=
  ∀ (s : State) (ss : Sel),
    (∀ (rpl : BitVec 2) (newCS : SegReg) (e : Stop), 4 ≤ ss.toNat → readDescriptor s ss = .error e →
      returnSSCheck s ss rpl newCS = .error e)
    ∧ (∀ (rpl : BitVec 2) (newCS : SegReg) (d : Word), 4 ≤ ss.toNat → readDescriptor s ss = .ok d →
      ((selRpl ss ≠ rpl ∨ ¬ (d.getLsbD 44 = true ∧ d.getLsbD 43 = false ∧ d.getLsbD 41 = true)
        ∨ d.extractLsb' 45 2 ≠ rpl →
          returnSSCheck s ss rpl newCS = .error (.exc (.gp (some ((ss &&& 0xFFFC#16).setWidth 32)))))
      ∧ (stackDescriptorRows ss rpl d = true → d.getLsbD 47 = false →
          returnSSCheck s ss rpl newCS = .error (.exc (.ss (some 0#32))))))
    ∧ (∀ (i : Instr) (n : OpSize) (ip cs fl sp w : Word) (newCS : LoadedSeg) (x : Exception),
      i.opSize = some n → (n = .w64 → modeOf s = .long64) → s.vmxNonRoot = false →
      modeOf s ≠ .real → modeOf s ≠ .v8086 → s.eflags.NT = false →
      popAt s n 0 = .ok ip → popAt s n 1 = .ok cs → popAt s n 2 = .ok fl →
      (modeOf s = .protectedMode → fl.getLsbD 17 = false ∨ s.cpl ≠ 0#2) →
      returnCSCheck s (cs.setWidth 16) = .ok newCS →
      (s.cpl < selRpl (cs.setWidth 16) ∨ modeOf s = .long64) →
      popAt s n 3 = .ok sp → popAt s n 4 = .ok w → w.setWidth 16 = ss →
      returnSSCheck s ss (selRpl (cs.setWidth 16)) newCS.seg = .error (.exc x) →
      exec i s = .fault (.exception x { s with nmiBlocked := false }))

/-- R213, R217: a NULL SS is accepted exactly when the instruction began in 64-bit mode, returns to 64-bit mode, at
level 0, 1 or 2, with the selector's RPL equal to that level; SS keeps the selector and is invalid. Which table's rows
apply, and what SS then holds, are the spec's decision D23; the rest of its hidden part is free (log 8). -/
def Obligations.NullStackSelectorAcceptedExactly : Prop :=
  ∀ (s : State) (ss : Sel) (rpl : BitVec 2) (newCS : SegReg), ss.toNat < 4 →
    ((∃ l, returnSSCheck s ss rpl newCS = .ok l) ↔
      modeOf s = .long64 ∧ s.eferLMA = true ∧ newCS.L = true ∧ rpl ≠ 3#2 ∧ selRpl ss = rpl)
    ∧ (∀ l, returnSSCheck s ss rpl newCS = .ok l → l.seg.sel = ss ∧ l.seg.valid = false ∧ l.mark = none)
    ∧ (∀ e, returnSSCheck s ss rpl newCS = .error e → e = .exc (.gp (some 0#32)))

/-- R70: the table is GDTR when bit 2 of the selector is 0, LDTR when it is 1. A selector of an absent LDT, an index
outside the table limit and, in IA-32e mode, a non-canonical descriptor address raise #GP(selector); else the eight
bytes at `table.base + 8*index` are read. That the sum, in IA-32e mode, is modulo 2^64 is the model's choice (log 38). -/
def Obligations.DescriptorLookupFollowsTheTables : Prop :=
  ∀ (s : State) (sel : Sel),
    let index := (sel.extractLsb' 3 13).toNat
    let base := if sel.getLsbD 2 = true then s.ldtr.base else s.gdtr.base
    let limit := if sel.getLsbD 2 = true then s.ldtr.limit.toNat else s.gdtr.limit.toNat
    let address := base + BitVec.ofNat 64 (8 * index)
    ((sel.getLsbD 2 = true ∧ s.ldtr.valid = false)
      ∨ limit < 8 * index + 7
      ∨ (s.eferLMA = true ∧ canonical s address = false) →
      readDescriptor s sel = .error (.exc (.gp (some ((sel &&& 0xFFFC#16).setWidth 32)))))
    ∧ (¬ (sel.getLsbD 2 = true ∧ s.ldtr.valid = false) →
      8 * index + 7 ≤ limit →
      (s.eferLMA = true → canonical s address = true) →
      readDescriptor s sel = loadV s .supervisorRead address 8)

/-- R216: the base and the scaled limit of a segment loaded from a descriptor, and each of its other fields. -/
def Obligations.DescriptorBaseAndLimit : Prop :=
  ∀ (sel : Sel) (d : Word),
    (segFromDescriptor sel d).base.toNat
      = (d.toNat / 2 ^ 56) * 2 ^ 24 + d.toNat / 2 ^ 16 % 2 ^ 24
    ∧ (segFromDescriptor sel d).limit.toNat =
      (let l20 := d.toNat / 2 ^ 48 % 2 ^ 4 * 2 ^ 16 + d.toNat % 2 ^ 16
       if d.getLsbD 55 = true then l20 * 4096 + 4095 else l20)
    ∧ segFromDescriptor sel d =
      { sel := sel, valid := true, base := (segFromDescriptor sel d).base, limit := (segFromDescriptor sel d).limit,
        dpl := d.extractLsb' 45 2, code := d.getLsbD 43,
        conforming := d.getLsbD 43 && d.getLsbD 42, writable := !d.getLsbD 43 && d.getLsbD 41,
        expandDown := !d.getLsbD 43 && d.getLsbD 42, L := d.getLsbD 53, DB := d.getLsbD 54,
        present := d.getLsbD 47 }

/-! ### Memory and the stack -/

/-- R61: a multi-byte read is little-endian. R60, R71, R282: each of its bytes is the byte of memory at the translated
address: the linear address, modulo 2^32 outside IA-32e mode (log 11), through the first rule of `Translate` that covers
it for the access, the identity where none does (log 4), in 64-bit arithmetic (log 33), and untranslated, without a page
fault, in real-address mode (log 13). Past the last linear address of IA-32e mode the bytes go on at 0 (log 38). A memory
in canonical form reads each listed byte, and 0 elsewhere (log 3). -/
def Obligations.ReadsAreLittleEndian : Prop :=
  ∀ (s : State) (acc : Access) (a : Word),
    (∀ (n : Nat) (b : Nat → Byte), n ≤ 8 →
      (∀ k, k < n → loadByte s acc (a + BitVec.ofNat 64 k) = .ok (b k)) →
      ∃ v, loadV s acc a n = .ok v ∧ v.toNat = ∑ k ∈ Finset.range n, (b k).toNat * 256 ^ k)
    ∧ (let linear := if s.cr0PE = true ∧ s.eferLMA = true then a else BitVec.ofNat 64 (a.toNat % 2 ^ 32)
      (s.cr0PE = false → loadByte s acc a = .ok (s.mem.read linear.toNat))
      ∧ (s.cr0PE = true → loadByte s acc a =
        match s.translation.find? (fun r => decide (r.access = acc ∧ r.first ≤ linear ∧ linear ≤ r.last)) with
        | none => .ok (s.mem.read linear.toNat)
        | some r => match r.result with
          | .physical base => .ok (s.mem.read (base + (linear - r.first)).toNat)
          | .pageFault code => .error (.exc (.pf code linear))))
    ∧ (∀ p : Nat, s.mem.wf = true →
      (∀ b, (p, b) ∈ s.mem → s.mem.read p = b) ∧ ((∀ b, (p, b) ∉ s.mem) → s.mem.read p = 0#8))

/-- R63: the stack address size is 64 in 64-bit mode, else 32 or 16 by SS.DB; the offset of the k-th item is
`(sp0 + k*n) mod 2^StackAddrSize`, with `sp0` that many low bits of RSP. -/
def Obligations.StackOffsetsWrapAtTheStackAddressSize : Prop :=
  ∀ (s : State) (n : OpSize) (k : Nat), k ≤ 9 →
    stackAddrSize s = (if modeOf s = .long64 then .w64 else if s.ss.DB = true then .w32 else .w16)
    ∧ (modeOf s = .long64 → (slotOffset s n k).toNat = (s.rsp.word.toNat + k * n.bytes) % 2 ^ 64)
    ∧ (modeOf s ≠ .long64 → s.ss.DB = true → (slotOffset s n k).toNat = (s.rsp.lo.toNat + k * n.bytes) % 2 ^ 32)
    ∧ (modeOf s ≠ .long64 → s.ss.DB = false → (slotOffset s n k).toNat = (s.rsp.lo.toNat + k * n.bytes) % 2 ^ 16)

/-- R116: the k-th pop reads its item at the k-th offset. R62 to R66, R287, in numbers: the bounds of a stack read (the
canonical form of its first and last byte in 64-bit mode, the limit of SS elsewhere, an expand-down one included, with no
wrap past the top of the offset space, log 12), its linear address, and when it is misaligned; outside its bounds it
raises #SS, else, misaligned, #AC, else only the translation can fault; and the exception of the first failing pop is the
fault of the execution. The order of the checks is the spec's decision D8, the limits are its decision D6; where the bytes
of an item lie past linear FFFFFFFFH in compatibility mode is the model's choice (log 35). -/
def Obligations.StackReadChecksInOrder : Prop :=
  ∀ (s : State),
    let bits := match s.params.addressBits with | .b48 => 48 | .b57 => 57
    (∀ (n : OpSize) (k : Nat), popAt s n k = stackRead s (slotOffset s n k) n.bytes)
    ∧ (∀ a : Word, canonical s a = true ↔ a.toNat < 2 ^ (bits - 1) ∨ 2 ^ 64 - 2 ^ (bits - 1) ≤ a.toNat)
    ∧ (∀ (off : Word) (n : Nat),
      (modeOf s = .long64 → (stackInBounds s off n = true ↔
        canonical s off = true ∧ canonical s (off + BitVec.ofNat 64 (n - 1)) = true))
      ∧ (modeOf s ≠ .long64 → (stackInBounds s off n = true ↔
        (if s.ss.code = false ∧ s.ss.expandDown = true then
          s.ss.limit.toNat < off.toNat ∧ off.toNat + n - 1 ≤ (if s.ss.DB = true then 0xFFFFFFFF else 0xFFFF)
        else off.toNat + n - 1 ≤ s.ss.limit.toNat)
        ∧ off.toNat + n ≤ (if s.ss.DB = true then 2 ^ 32 else 2 ^ 16)))
      ∧ (modeOf s = .long64 → stackLinear s off = off)
      ∧ (modeOf s ≠ .long64 → (stackLinear s off).toNat = (s.ss.base.toNat + off.toNat) % 2 ^ 32)
      ∧ (stackAligned s off n = false ↔
        s.cr0PE = true ∧ s.cpl = 3#2 ∧ s.cr0AM = true ∧ s.eflags.AC = true ∧ (stackLinear s off).toNat % n ≠ 0)
      ∧ (stackInBounds s off n = false →
        stackRead s off n = .error (.exc (if s.cr0PE then .ss (some 0#32) else .ss none)))
      ∧ (stackInBounds s off n = true → stackAligned s off n = false → stackRead s off n = .error (.exc .ac))
      ∧ (stackInBounds s off n = true → stackAligned s off n = true →
        stackRead s off n = loadV s (.dataRead s.cpl) (stackLinear s off) n))
    ∧ (∀ (i : Instr) (n : OpSize) (k : Nat) (x : Exception),
      i.opSize = some n → (n = .w64 → modeOf s = .long64) → s.vmxNonRoot = false →
      (modeOf s = .v8086 → s.cr4VME = false ∧ s.eflags.IOPL = 3#2) →
      (modeOf s = .protectedMode ∨ modeOf s = .compat ∨ modeOf s = .long64 → s.eflags.NT = false) →
      (∀ j, j < k → ∃ v, popAt s n j = .ok v) → popAt s n k = .error (.exc x) →
      (k < 3
        ∨ (k < 5 ∧ ∃ cs fl newCS, popAt s n 1 = .ok cs ∧ popAt s n 2 = .ok fl
          ∧ modeOf s ≠ .real ∧ modeOf s ≠ .v8086
          ∧ (modeOf s = .protectedMode → fl.getLsbD 17 = false ∨ s.cpl ≠ 0#2)
          ∧ returnCSCheck s (cs.setWidth 16) = .ok newCS
          ∧ (s.cpl < selRpl (cs.setWidth 16) ∨ modeOf s = .long64))
        ∨ (k < 9 ∧ n = .w32 ∧ modeOf s = .protectedMode ∧ s.cpl = 0#2 ∧ ∃ ip fl, popAt s n 0 = .ok ip
          ∧ popAt s n 2 = .ok fl ∧ fl.getLsbD 17 = true ∧ ip.toNat ≤ 0xFFFF
          ∧ ¬ (s.cr4CET = true ∧ (s.uCet.getLsbD 2 = true ∨ s.uCet.getLsbD 0 = true)))) →
      exec i s = .fault (.exception x { s with nmiBlocked := false }))

/-- R66, R336(h): an execution below CPL 3 raises no #AC. -/
def Obligations.AlignmentFaultsOnlyAtCpl3 : Prop :=
  ∀ (i : Instr) (n : OpSize) (s left : State), i.opSize = some n → takesTaskReturn s = false →
    s.cpl ≠ 3#2 → exec i s ≠ .fault (.exception .ac left)

/-- R149, R21: the stack pointer after a return without a stack switch, by stack address size; with 32, the upper half of
RSP is 0 in IA-32e mode and a free value in a legacy mode (log 7). -/
def Obligations.StackPointerAdvanceBySize : Prop :=
  ∀ (s : State) (tsp : Word),
    (stackAddrSize s = .w16 →
      (stackPointerAdvance s tsp).word.extractLsb' 16 48 = s.rsp.word.extractLsb' 16 48
      ∧ (stackPointerAdvance s tsp).word.setWidth 16 = tsp.setWidth 16)
    ∧ (stackAddrSize s = .w32 → (stackPointerAdvance s tsp).lo = tsp.setWidth 32
      ∧ (stackPointerAdvance s tsp).hi
        = if s.cr0PE = true ∧ s.eferLMA = true then 0#32 else Config.freeRspHigh s.freeIdx)
    ∧ (stackAddrSize s = .w64 → (stackPointerAdvance s tsp).word = tsp)

/-! ### Flags -/

/-- R122: `WriteFlagsProt`, every field; and the image, each field from its bit (R121), at the bit positions of R23, which
the spec takes from general knowledge. -/
def Obligations.ProtectedFlagWriteByField : Prop :=
  (∀ w : Word, Eflags.ofImage w =
    { CF := w.getLsbD 0, PF := w.getLsbD 2, AF := w.getLsbD 4, ZF := w.getLsbD 6, SF := w.getLsbD 7,
      TF := w.getLsbD 8, IF := w.getLsbD 9, DF := w.getLsbD 10, OF := w.getLsbD 11,
      IOPL := w.extractLsb' 12 2, NT := w.getLsbD 14, RF := w.getLsbD 16, VM := w.getLsbD 17,
      AC := w.getLsbD 18, VIF := w.getLsbD 19, VIP := w.getLsbD 20, ID := w.getLsbD 21 })
  ∧ ∀ (f img : Eflags) (n : OpSize) (cpl : BitVec 2),
    writeFlagsProt f img n cpl =
      { CF := img.CF, PF := img.PF, AF := img.AF, ZF := img.ZF, SF := img.SF, TF := img.TF
        IF := if cpl ≤ f.IOPL then img.IF else f.IF
        DF := img.DF, OF := img.OF
        IOPL := if cpl = 0#2 then img.IOPL else f.IOPL
        NT := img.NT
        RF := if n = .w16 then f.RF else img.RF
        VM := f.VM
        AC := if n = .w16 then f.AC else img.AC
        VIF := if cpl = 0#2 ∧ n ≠ .w16 then img.VIF else f.VIF
        VIP := if cpl = 0#2 ∧ n ≠ .w16 then img.VIP else f.VIP
        ID := if n = .w16 then f.ID else img.ID }

/-- R293, R123: in protected, virtual-8086 and IA-32e mode an execution at CPL above 0 changes none of IOPL, VIF, VIP
and VM. -/
def Obligations.OnlyCpl0ChangesIoplAndVirtualFlags : Prop :=
  ∀ (i : Instr) (n : OpSize) (s t : State),
    i.opSize = some n → s.cr0PE = true → takesTaskReturn s = false → s.cpl ≠ 0#2 → exec i s = .next t →
    t.eflags.IOPL = s.eflags.IOPL ∧ t.eflags.VIF = s.eflags.VIF ∧ t.eflags.VIP = s.eflags.VIP
    ∧ t.eflags.VM = s.eflags.VM

/-- R293, R336(e): with CPL above IOPL the interrupt flag is kept, without a fault. -/
def Obligations.InterruptFlagGuardedByIopl : Prop :=
  ∀ (i : Instr) (n : OpSize) (s t : State),
    i.opSize = some n → s.cr0PE = true → takesTaskReturn s = false → s.eflags.IOPL < s.cpl →
    exec i s = .next t → t.eflags.IF = s.eflags.IF

/-- R110, R336(a): a 16-bit IRET changes none of RF, AC, ID, VM, VIF, VIP, in any mode. -/
def Obligations.SixteenBitReturnKeepsHighFlags : Prop :=
  ∀ (i : Instr) (s t : State),
    i.opSize = some .w16 → takesTaskReturn s = false → exec i s = .next t →
    t.eflags.RF = s.eflags.RF ∧ t.eflags.AC = s.eflags.AC ∧ t.eflags.ID = s.eflags.ID
    ∧ t.eflags.VM = s.eflags.VM ∧ t.eflags.VIF = s.eflags.VIF ∧ t.eflags.VIP = s.eflags.VIP

/-- R111, R162: virtual-8086 mode is entered only by a 32-bit IRET at CPL 0 in legacy protected mode whose image
has VM set; no execution leaves it. -/
def Obligations.VirtualFlagSetOnlyByReturnToVirtual8086 : Prop :=
  ∀ (i : Instr) (n : OpSize) (s t : State),
    i.opSize = some n → takesTaskReturn s = false → exec i s = .next t → t.eflags.VM ≠ s.eflags.VM →
    n = .w32 ∧ modeOf s = .protectedMode ∧ s.cpl = 0#2 ∧ t.cpl = 3#2 ∧ modeOf t = .v8086
    ∧ ∃ fl, popAt s .w32 2 = .ok fl ∧ fl.getLsbD 17 = true

/-! ### Whole-machine rules -/

/-- R293: the instruction can lower privilege and never raise it. -/
def Obligations.PrivilegeIsNeverRaised : Prop :=
  ∀ (i : Instr) (n : OpSize) (s t : State),
    i.opSize = some n → takesTaskReturn s = false → exec i s = .next t → s.cpl ≤ t.cpl

/-- R20, R44, R221: no path changes a general register other than the stack pointer, a control bit, an MSR or GDTR; only a
task return changes CR3, LDTR or TR. -/
def Obligations.SystemRegistersAreLeftAlone : Prop :=
  ∀ (i : Instr) (s t : State), exec i s = .next t →
    sameControl s t ∧ (takesTaskReturn s = false → sameTask s t)

/-- R219(a): an execution that keeps CPL leaves DS, ES, FS and GS alone, unless it is a task return. -/
def Obligations.SameLevelKeepsDataSegments : Prop :=
  ∀ (i : Instr) (n : OpSize) (s t : State),
    i.opSize = some n → takesTaskReturn s = false → exec i s = .next t → t.cpl = s.cpl → sameDataSegments s t

/-- R218: a return to an outer level nullifies each inaccessible data segment register and leaves the others. -/
def Obligations.OuterReturnNullifiesInaccessibleSegments : Prop :=
  ∀ (i : Instr) (n : OpSize) (s t : State),
    i.opSize = some n → takesTaskReturn s = false → exec i s = .next t → s.cpl < t.cpl →
    t.eflags.VM = s.eflags.VM →
    afterOuterReturn s.ds t.ds t.cpl ∧ afterOuterReturn s.es t.es t.cpl
    ∧ afterOuterReturn s.fs t.fs t.cpl ∧ afterOuterReturn s.gs t.gs t.cpl

/-- R69, R70, R333: outside a task return memory changes at most in the bytes computed by `storeTargets`: the token
and the accessed bits of the descriptors of the popped selectors. -/
def Obligations.StoresOnlyAtComputedAddresses : Prop :=
  ∀ (i : Instr) (n : OpSize) (s t : State) (a : Nat),
    i.opSize = some n → takesTaskReturn s = false → exec i s = .next t →
    (∀ p ∈ storeTargets n s, ∀ pa, translate s p.1 p.2 = .ok pa → pa.toNat ≠ a) →
    t.mem.read a = s.mem.read a

/-- R140 to R149: real-address mode and virtual-8086 mode store nothing and change neither SS, SSP, CPL nor a data
segment register. -/
def Obligations.RealAndVirtual8086ReturnsStoreNothing : Prop :=
  ∀ (i : Instr) (n : OpSize) (s t : State),
    i.opSize = some n → modeOf s = .real ∨ modeOf s = .v8086 → exec i s = .next t →
    t.mem = s.mem ∧ t.ss = s.ss ∧ t.ssp = s.ssp ∧ t.cpl = s.cpl ∧ sameDataSegments s t ∧ modeOf t = modeOf s

/-! ### Shadow stacks -/

/-- R250: `ShadowStackEnabled`, in bits (the spec's decision D13). R39: where it is false for both the old and the new
privilege level no execution, a task return among them, changes SSP (under the EFLAGS before and after, log 23). With
CR4.CET = 0 the shadow-stack rules are inert: outside a task return memory is unchanged too, without the accessed-bit
write-back. -/
def Obligations.ShadowStackInertWithoutCet : Prop :=
  (∀ (s : State) (cpl : BitVec 2), shadowStackEnabled s cpl = true ↔
    s.params.cetSupported = true ∧ s.cr4CET = true ∧ s.cr0PE = true ∧ s.eflags.VM = false
    ∧ (if cpl = 3#2 then s.uCet.getLsbD 0 = true else s.sCet.getLsbD 0 = true))
  ∧ (∀ (i : Instr) (s t : State), exec i s = .next t →
    shadowStackEnabled s s.cpl = false → shadowStackEnabled t t.cpl = false → t.ssp = s.ssp)
  ∧ (∀ (i : Instr) (n : OpSize) (s t : State),
    i.opSize = some n → takesTaskReturn s = false → s.cr4CET = false → exec i s = .next t →
    t.ssp = s.ssp ∧ (s.params.descAccessedWriteback = false → t.mem = s.mem))

/-- R254, R255, R260: the shadow-stack checks of an outer return to level 3; and the exception of the checks is the fault of
a return to level 3 that reaches them (R215, R220). The order of the checks is the spec's decision D8. -/
def Obligations.ShadowChecksOfReturnToLevel3 : Prop :=
  ∀ (s : State) (cs : Sel) (newCS : SegReg) (ip : Word),
    (shadowOuterChecks s 3#2 cs newCS ip =
      (let token := if shadowStackEnabled s s.cpl then some s.ssp else none
       if shadowStackEnabled s s.cpl = true ∧ s.ssp.toNat % 8 ≠ 0 then .error (.exc .cp)
       else if shadowStackEnabled s 3#2 = false then .ok ⟨s.ssp, token⟩
       else if s.pl3Ssp.toNat % 4 ≠ 0 then .error (.exc .cp)
       else if prevSspInRange s newCS s.pl3Ssp then .ok ⟨s.pl3Ssp, token⟩
       else .error (.exc (.gp (some 0#32)))))
    ∧ (∀ (i : Instr) (n : OpSize) (d : Word) (x : Exception),
      i.opSize = some n → reachesShadowChecks n s ip cs d → s.cpl < selRpl cs → selRpl cs = 3#2 →
      shadowOuterChecks s 3#2 cs (segFromDescriptor cs d) ip = .error (.exc x) →
      exec i s = .fault (.exception x { s with nmiBlocked := false }))

/-- R254, R252, R260: the shadow-stack checks of an outer return to level 1 or 2: without a supervisor shadow stack SSP
stays and no token is freed; an SSP that is not 8-byte aligned, a frame whose CS or linear return address does not match
and a previous SSP that is not 4-byte aligned raise #CP; one out of range raises #GP(0). R68: a load is the 8-byte
shadow-stack read, of a user at CPL 3 and of a supervisor below (general knowledge of the spec); it can stop with #PF
alone, and the first that does, in the order SSP + 16, SSP + 8, SSP, ends the checks with it. The exception of the checks
is the fault of a return to level 1 or 2 that reaches them (R215, R220). The order of the checks is the spec's decision
D8. -/
def Obligations.ShadowChecksOfReturnToSupervisorLevel : Prop :=
  ∀ (s : State) (rpl : BitVec 2) (cs : Sel) (newCS : SegReg) (ip : Word), s.cpl < rpl → rpl ≠ 3#2 →
    (∀ la, shstkLoad8 s la = loadV s (.shadowRead (decide (s.cpl = 3#2))) la 8)
    ∧ shadowUser s = decide (s.cpl = 3#2)
    ∧ (∀ la e, shstkLoad8 s la = .error e → ∃ code page, e = .exc (.pf code page))
    ∧ (shadowStackEnabled s s.cpl = false → shadowOuterChecks s rpl cs newCS ip = .ok ⟨s.ssp, none⟩)
    ∧ (shadowStackEnabled s s.cpl = true → s.ssp.toNat % 8 ≠ 0 →
        shadowOuterChecks s rpl cs newCS ip = .error (.exc .cp))
    ∧ (shadowStackEnabled s s.cpl = true → s.ssp.toNat % 8 = 0 →
      (∀ e, shstkLoad8 s (s.ssp + 16#64) = .error e → shadowOuterChecks s rpl cs newCS ip = .error e)
      ∧ (∀ c e, shstkLoad8 s (s.ssp + 16#64) = .ok c → shstkLoad8 s (s.ssp + 8#64) = .error e →
        shadowOuterChecks s rpl cs newCS ip = .error e)
      ∧ (∀ c l e, shstkLoad8 s (s.ssp + 16#64) = .ok c → shstkLoad8 s (s.ssp + 8#64) = .ok l →
        shstkLoad8 s s.ssp = .error e → shadowOuterChecks s rpl cs newCS ip = .error e)
      ∧ (∀ c l prev, shstkLoad8 s (s.ssp + 16#64) = .ok c → shstkLoad8 s (s.ssp + 8#64) = .ok l →
        shstkLoad8 s s.ssp = .ok prev →
        shadowOuterChecks s rpl cs newCS ip =
          if c ≠ cs.setWidth 64 ∨ l ≠ lip s newCS ip ∨ prev.toNat % 4 ≠ 0 then .error (.exc .cp)
          else if prevSspInRange s newCS prev then .ok ⟨prev, some (s.ssp + 24#64)⟩
          else .error (.exc (.gp (some 0#32)))))
    ∧ (∀ (i : Instr) (n : OpSize) (d : Word) (x : Exception),
      i.opSize = some n → reachesShadowChecks n s ip cs d → selRpl cs = rpl →
      shadowOuterChecks s rpl cs (segFromDescriptor cs d) ip = .error (.exc x) →
      exec i s = .fault (.exception x { s with nmiBlocked := false }))

/-- R257, R252, R253, R260: the shadow-stack checks of a same-privilege return, with its compares. R68: a load is the
8-byte shadow-stack read, of a user at CPL 3 and of a supervisor below (general knowledge of the spec); it can stop with #PF
alone, and the first that does, in the order SSP + 16, SSP + 8, SSP, ends the checks with it. The exception of the checks
is the fault of a same-privilege return that reaches them (R219, R220). The order of the checks is the spec's decision
D8. -/
def Obligations.ShadowChecksOfSamePrivilegeReturn : Prop :=
  ∀ (s : State) (cs : Sel) (newCS : SegReg) (ip : Word),
    (∀ la, shstkLoad8 s la = loadV s (.shadowRead (decide (s.cpl = 3#2))) la 8)
    ∧ shadowUser s = decide (s.cpl = 3#2)
    ∧ (∀ la e, shstkLoad8 s la = .error e → ∃ code page, e = .exc (.pf code page))
    ∧ (shadowStackEnabled s s.cpl = false → shadowSameChecks s cs newCS ip = .ok ⟨s.ssp, none⟩)
    ∧ (shadowStackEnabled s s.cpl = true → s.ssp.toNat % 8 ≠ 0 →
        shadowSameChecks s cs newCS ip = .error (.exc .cp))
    ∧ (shadowStackEnabled s s.cpl = true → s.ssp.toNat % 8 = 0 →
      (∀ e, shstkLoad8 s (s.ssp + 16#64) = .error e → shadowSameChecks s cs newCS ip = .error e)
      ∧ (∀ c e, shstkLoad8 s (s.ssp + 16#64) = .ok c → shstkLoad8 s (s.ssp + 8#64) = .error e →
        shadowSameChecks s cs newCS ip = .error e)
      ∧ (∀ c l e, shstkLoad8 s (s.ssp + 16#64) = .ok c → shstkLoad8 s (s.ssp + 8#64) = .ok l →
        shstkLoad8 s s.ssp = .error e → shadowSameChecks s cs newCS ip = .error e)
      ∧ (∀ c l prev, shstkLoad8 s (s.ssp + 16#64) = .ok c → shstkLoad8 s (s.ssp + 8#64) = .ok l →
        shstkLoad8 s s.ssp = .ok prev →
        shadowSameChecks s cs newCS ip =
          if c ≠ cs.setWidth 64 ∨ l ≠ lip s newCS ip ∨ prev.toNat % 4 ≠ 0 then .error (.exc .cp)
          else if prevSspInRange s newCS prev then
            .ok ⟨prev, if s.eferLMA = true ∧ prev ≠ s.ssp + 24#64 then some (s.ssp + 24#64) else none⟩
          else .error (.exc (.gp (some 0#32)))))
    ∧ (∀ (i : Instr) (n : OpSize) (d : Word) (x : Exception),
      i.opSize = some n → reachesShadowChecks n s ip cs d → selRpl cs = s.cpl →
      shadowSameChecks s cs (segFromDescriptor cs d) ip = .error (.exc x) →
      exec i s = .fault (.exception x { s with nmiBlocked := false }))

/-- R255, R259: the previous-SSP range and the linear return address, by new mode. -/
def Obligations.SspRangeAndLinearReturnAddress : Prop :=
  ∀ (s : State) (newCS : SegReg) (v : Word),
    ((s.eferLMA = true ∧ newCS.L = true) →
      prevSspInRange s newCS v = canonical s v ∧ lip s newCS v = v)
    ∧ (¬ (s.eferLMA = true ∧ newCS.L = true) →
      (prevSspInRange s newCS v = true ↔ v.toNat < 2 ^ 32)
      ∧ (lip s newCS v).toNat = (newCS.base.toNat + v.toNat) % 2 ^ 32)

/-- R69, R256: the compare-exchange of the token at `la`. A token equal to `la` with bit 0 set is replaced by `la`,
and only memory changes (`Translate` the identity); any other token is left alone, with no exception. That the compare
asks `Translate` for a shadow-stack read, and for a write only on a match, is the model's choice (log 37). -/
def Obligations.TokenIsFreedExactlyWhenItMatches : Prop :=
  ∀ (s : State) (la v : Word), s.mem.wf = true → loadV s (.shadowRead (shadowUser s)) la 8 = .ok v →
    (v = la ||| 1#64 → s.translation = [] →
      ∃ u, tokenFree s la = .ok u ∧ u = { s with mem := u.mem }
        ∧ loadV u (.shadowRead (shadowUser s)) la 8 = .ok la)
    ∧ (v ≠ la ||| 1#64 → tokenFree s la = .ok s)

/-- R70, R216: with DESC_ACCESSED_WRITEBACK a load sets bit 40 of a descriptor whose accessed bit is clear; else
it writes nothing. R284 to R286, R288, R71: a page fault of that write is #PF, and the fault of an execution whose other
checks pass, for CS and, once that of CS is made, for SS where it is popped. The order of the stores and what such a page
fault leaves are the model's choices (log 15, 16), and so is that byte 5 is asked for as a write alone (log 37). -/
def Obligations.AccessedBitIsSetByALoad : Prop :=
  (∀ (s : State) (sel : Sel) (d : Word),
    let byte5 := translate s .supervisorWrite (descriptorAddr s sel + 5#64)
    (s.params.descAccessedWriteback = true ∧ d.getLsbD 40 = false →
      (∀ pa, byte5 = .ok pa → markAccessed s (loadSegment s sel d).mark =
        .ok { s with mem := s.mem.write pa.toNat (s.mem.read pa.toNat ||| 1#8) })
      ∧ (∀ code la, byte5 = .error (.exc (.pf code la)) →
        markAccessed s (loadSegment s sel d).mark = .error (.exc (.pf code la))))
    ∧ (¬ (s.params.descAccessedWriteback = true ∧ d.getLsbD 40 = false) →
      markAccessed s (loadSegment s sel d).mark = .ok s))
  ∧ (∀ (i : Instr) (n : OpSize) (s : State) (ip d : Word) (cs : Sel) (sh : ShadowResult) (x : Exception),
    i.opSize = some n → reachesShadowChecks n s ip cs d →
    shadowChecks s cs (segFromDescriptor cs d) ip = .ok sh →
    markAccessed s (loadSegment s cs d).mark = .error (.exc x)
      ∨ (∃ u sp ss newSS, markAccessed s (loadSegment s cs d).mark = .ok u
        ∧ (s.cpl < selRpl cs ∨ modeOf s = .long64) ∧ popAt s n 3 = .ok sp ∧ popAt s n 4 = .ok ss
        ∧ returnSSCheck s (ss.setWidth 16) (selRpl cs) (segFromDescriptor cs d) = .ok newSS
        ∧ markAccessed u newSS.mark = .error (.exc x)) →
    exec i s = .fault (.exception x { s with nmiBlocked := false }))

/-! ### The invariant -/

/-- The invariant of the model is kept by every step: memory keeps its canonical form and CPL fits the mode (R36,
R219). -/
def Obligations.StepKeepsTheInvariant : Prop :=
  ∀ s t : State, Inv s = true → step s = .next t → Inv t = true

/-- The state after reset satisfies the invariant; the reset values are the model's (log 1, 2, 3). -/
def Obligations.ResetSatisfiesTheInvariant : Prop :=
  Inv State.reset = true
end

