-- ==== Sys2Proof/Laws/State.lean ====
section
/-! SUPPORT. What each update of the state leaves in each field; every lemma is true by unfolding. -/

namespace Sys2Proof.Machine

/-! ### `unblockNmi` -/

@[simp] theorem unblockNmi_gprs (s : State) : (unblockNmi s).gprs = s.gprs := rfl

@[simp] theorem unblockNmi_rsp (s : State) : (unblockNmi s).rsp = s.rsp := rfl

@[simp] theorem unblockNmi_rip (s : State) : (unblockNmi s).rip = s.rip := rfl

@[simp] theorem unblockNmi_eflags (s : State) : (unblockNmi s).eflags = s.eflags := rfl

@[simp] theorem unblockNmi_cr0PE (s : State) : (unblockNmi s).cr0PE = s.cr0PE := rfl

@[simp] theorem unblockNmi_cr0AM (s : State) : (unblockNmi s).cr0AM = s.cr0AM := rfl

@[simp] theorem unblockNmi_cr3 (s : State) : (unblockNmi s).cr3 = s.cr3 := rfl

@[simp] theorem unblockNmi_cr4CET (s : State) : (unblockNmi s).cr4CET = s.cr4CET := rfl

@[simp] theorem unblockNmi_cr4VME (s : State) : (unblockNmi s).cr4VME = s.cr4VME := rfl

@[simp] theorem unblockNmi_eferLMA (s : State) : (unblockNmi s).eferLMA = s.eferLMA := rfl

@[simp] theorem unblockNmi_uCet (s : State) : (unblockNmi s).uCet = s.uCet := rfl

@[simp] theorem unblockNmi_sCet (s : State) : (unblockNmi s).sCet = s.sCet := rfl

@[simp] theorem unblockNmi_pl3Ssp (s : State) : (unblockNmi s).pl3Ssp = s.pl3Ssp := rfl

@[simp] theorem unblockNmi_cs (s : State) : (unblockNmi s).cs = s.cs := rfl

@[simp] theorem unblockNmi_ss (s : State) : (unblockNmi s).ss = s.ss := rfl

@[simp] theorem unblockNmi_ds (s : State) : (unblockNmi s).ds = s.ds := rfl

@[simp] theorem unblockNmi_es (s : State) : (unblockNmi s).es = s.es := rfl

@[simp] theorem unblockNmi_fs (s : State) : (unblockNmi s).fs = s.fs := rfl

@[simp] theorem unblockNmi_gs (s : State) : (unblockNmi s).gs = s.gs := rfl

@[simp] theorem unblockNmi_cpl (s : State) : (unblockNmi s).cpl = s.cpl := rfl

@[simp] theorem unblockNmi_gdtr (s : State) : (unblockNmi s).gdtr = s.gdtr := rfl

@[simp] theorem unblockNmi_ldtr (s : State) : (unblockNmi s).ldtr = s.ldtr := rfl

@[simp] theorem unblockNmi_tr (s : State) : (unblockNmi s).tr = s.tr := rfl

@[simp] theorem unblockNmi_ssp (s : State) : (unblockNmi s).ssp = s.ssp := rfl

@[simp] theorem unblockNmi_nmiBlocked (s : State) : (unblockNmi s).nmiBlocked = false := rfl

@[simp] theorem unblockNmi_vmxNonRoot (s : State) : (unblockNmi s).vmxNonRoot = s.vmxNonRoot := rfl

@[simp] theorem unblockNmi_mem (s : State) : (unblockNmi s).mem = s.mem := rfl

@[simp] theorem unblockNmi_params (s : State) : (unblockNmi s).params = s.params := rfl

@[simp] theorem unblockNmi_translation (s : State) : (unblockNmi s).translation = s.translation := rfl

@[simp] theorem unblockNmi_tasks (s : State) : (unblockNmi s).tasks = s.tasks := rfl

@[simp] theorem unblockNmi_freeIdx (s : State) : (unblockNmi s).freeIdx = s.freeIdx := rfl

/-! ### `retire` -/

@[simp] theorem retire_gprs (s : State) : (retire s).gprs = s.gprs := rfl

@[simp] theorem retire_rsp (s : State) : (retire s).rsp = s.rsp := rfl

@[simp] theorem retire_rip (s : State) : (retire s).rip = s.rip := rfl

@[simp] theorem retire_eflags (s : State) : (retire s).eflags = s.eflags := rfl

@[simp] theorem retire_cr0PE (s : State) : (retire s).cr0PE = s.cr0PE := rfl

@[simp] theorem retire_cr0AM (s : State) : (retire s).cr0AM = s.cr0AM := rfl

@[simp] theorem retire_cr3 (s : State) : (retire s).cr3 = s.cr3 := rfl

@[simp] theorem retire_cr4CET (s : State) : (retire s).cr4CET = s.cr4CET := rfl

@[simp] theorem retire_cr4VME (s : State) : (retire s).cr4VME = s.cr4VME := rfl

@[simp] theorem retire_eferLMA (s : State) : (retire s).eferLMA = s.eferLMA := rfl

@[simp] theorem retire_uCet (s : State) : (retire s).uCet = s.uCet := rfl

@[simp] theorem retire_sCet (s : State) : (retire s).sCet = s.sCet := rfl

@[simp] theorem retire_pl3Ssp (s : State) : (retire s).pl3Ssp = s.pl3Ssp := rfl

@[simp] theorem retire_cs (s : State) : (retire s).cs = s.cs := rfl

@[simp] theorem retire_ss (s : State) : (retire s).ss = s.ss := rfl

@[simp] theorem retire_ds (s : State) : (retire s).ds = s.ds := rfl

@[simp] theorem retire_es (s : State) : (retire s).es = s.es := rfl

@[simp] theorem retire_fs (s : State) : (retire s).fs = s.fs := rfl

@[simp] theorem retire_gs (s : State) : (retire s).gs = s.gs := rfl

@[simp] theorem retire_cpl (s : State) : (retire s).cpl = s.cpl := rfl

@[simp] theorem retire_gdtr (s : State) : (retire s).gdtr = s.gdtr := rfl

@[simp] theorem retire_ldtr (s : State) : (retire s).ldtr = s.ldtr := rfl

@[simp] theorem retire_tr (s : State) : (retire s).tr = s.tr := rfl

@[simp] theorem retire_ssp (s : State) : (retire s).ssp = s.ssp := rfl

@[simp] theorem retire_nmiBlocked (s : State) : (retire s).nmiBlocked = false := rfl

@[simp] theorem retire_vmxNonRoot (s : State) : (retire s).vmxNonRoot = s.vmxNonRoot := rfl

@[simp] theorem retire_mem (s : State) : (retire s).mem = s.mem := rfl

@[simp] theorem retire_params (s : State) : (retire s).params = s.params := rfl

@[simp] theorem retire_translation (s : State) : (retire s).translation = s.translation := rfl

@[simp] theorem retire_tasks (s : State) : (retire s).tasks = s.tasks := rfl

@[simp] theorem retire_freeIdx (s : State) : (retire s).freeIdx = s.freeIdx + 1 := rfl

/-! ### `commitReturn` -/

@[simp] theorem commitReturn_gprs (s : State) (n : OpSize) (f : Frame) (r : SegReg) :
    (commitReturn s n f r).gprs = s.gprs := rfl

@[simp] theorem commitReturn_rsp (s : State) (n : OpSize) (f : Frame) (r : SegReg) :
    (commitReturn s n f r).rsp = s.rsp := rfl

@[simp] theorem commitReturn_rip (s : State) (n : OpSize) (f : Frame) (r : SegReg) :
    (commitReturn s n f r).rip = f.ip := rfl

@[simp] theorem commitReturn_eflags (s : State) (n : OpSize) (f : Frame) (r : SegReg) :
    (commitReturn s n f r).eflags = writeFlagsProt s.eflags (Eflags.ofImage f.flags) n s.cpl := rfl

@[simp] theorem commitReturn_cr0PE (s : State) (n : OpSize) (f : Frame) (r : SegReg) :
    (commitReturn s n f r).cr0PE = s.cr0PE := rfl

@[simp] theorem commitReturn_cr0AM (s : State) (n : OpSize) (f : Frame) (r : SegReg) :
    (commitReturn s n f r).cr0AM = s.cr0AM := rfl

@[simp] theorem commitReturn_cr3 (s : State) (n : OpSize) (f : Frame) (r : SegReg) :
    (commitReturn s n f r).cr3 = s.cr3 := rfl

@[simp] theorem commitReturn_cr4CET (s : State) (n : OpSize) (f : Frame) (r : SegReg) :
    (commitReturn s n f r).cr4CET = s.cr4CET := rfl

@[simp] theorem commitReturn_cr4VME (s : State) (n : OpSize) (f : Frame) (r : SegReg) :
    (commitReturn s n f r).cr4VME = s.cr4VME := rfl

@[simp] theorem commitReturn_eferLMA (s : State) (n : OpSize) (f : Frame) (r : SegReg) :
    (commitReturn s n f r).eferLMA = s.eferLMA := rfl

@[simp] theorem commitReturn_uCet (s : State) (n : OpSize) (f : Frame) (r : SegReg) :
    (commitReturn s n f r).uCet = s.uCet := rfl

@[simp] theorem commitReturn_sCet (s : State) (n : OpSize) (f : Frame) (r : SegReg) :
    (commitReturn s n f r).sCet = s.sCet := rfl

@[simp] theorem commitReturn_pl3Ssp (s : State) (n : OpSize) (f : Frame) (r : SegReg) :
    (commitReturn s n f r).pl3Ssp = s.pl3Ssp := rfl

@[simp] theorem commitReturn_cs (s : State) (n : OpSize) (f : Frame) (r : SegReg) :
    (commitReturn s n f r).cs = r := rfl

@[simp] theorem commitReturn_ss (s : State) (n : OpSize) (f : Frame) (r : SegReg) :
    (commitReturn s n f r).ss = s.ss := rfl

@[simp] theorem commitReturn_ds (s : State) (n : OpSize) (f : Frame) (r : SegReg) :
    (commitReturn s n f r).ds = s.ds := rfl

@[simp] theorem commitReturn_es (s : State) (n : OpSize) (f : Frame) (r : SegReg) :
    (commitReturn s n f r).es = s.es := rfl

@[simp] theorem commitReturn_fs (s : State) (n : OpSize) (f : Frame) (r : SegReg) :
    (commitReturn s n f r).fs = s.fs := rfl

@[simp] theorem commitReturn_gs (s : State) (n : OpSize) (f : Frame) (r : SegReg) :
    (commitReturn s n f r).gs = s.gs := rfl

@[simp] theorem commitReturn_cpl (s : State) (n : OpSize) (f : Frame) (r : SegReg) :
    (commitReturn s n f r).cpl = s.cpl := rfl

@[simp] theorem commitReturn_gdtr (s : State) (n : OpSize) (f : Frame) (r : SegReg) :
    (commitReturn s n f r).gdtr = s.gdtr := rfl

@[simp] theorem commitReturn_ldtr (s : State) (n : OpSize) (f : Frame) (r : SegReg) :
    (commitReturn s n f r).ldtr = s.ldtr := rfl

@[simp] theorem commitReturn_tr (s : State) (n : OpSize) (f : Frame) (r : SegReg) :
    (commitReturn s n f r).tr = s.tr := rfl

@[simp] theorem commitReturn_ssp (s : State) (n : OpSize) (f : Frame) (r : SegReg) :
    (commitReturn s n f r).ssp = s.ssp := rfl

@[simp] theorem commitReturn_nmiBlocked (s : State) (n : OpSize) (f : Frame) (r : SegReg) :
    (commitReturn s n f r).nmiBlocked = s.nmiBlocked := rfl

@[simp] theorem commitReturn_vmxNonRoot (s : State) (n : OpSize) (f : Frame) (r : SegReg) :
    (commitReturn s n f r).vmxNonRoot = s.vmxNonRoot := rfl

@[simp] theorem commitReturn_mem (s : State) (n : OpSize) (f : Frame) (r : SegReg) :
    (commitReturn s n f r).mem = s.mem := rfl

@[simp] theorem commitReturn_params (s : State) (n : OpSize) (f : Frame) (r : SegReg) :
    (commitReturn s n f r).params = s.params := rfl

@[simp] theorem commitReturn_translation (s : State) (n : OpSize) (f : Frame) (r : SegReg) :
    (commitReturn s n f r).translation = s.translation := rfl

@[simp] theorem commitReturn_tasks (s : State) (n : OpSize) (f : Frame) (r : SegReg) :
    (commitReturn s n f r).tasks = s.tasks := rfl

@[simp] theorem commitReturn_freeIdx (s : State) (n : OpSize) (f : Frame) (r : SegReg) :
    (commitReturn s n f r).freeIdx = s.freeIdx := rfl

/-! ### `commitOuter` -/

@[simp] theorem commitOuter_gprs (s : State) (n : OpSize) (f : Frame) (st : StackItems) (r q : SegReg) (v : Word) :
    (commitOuter s n f st r q v).gprs = s.gprs := rfl

@[simp] theorem commitOuter_rsp (s : State) (n : OpSize) (f : Frame) (st : StackItems) (r q : SegReg) (v : Word) :
    (commitOuter s n f st r q v).rsp = loadStackPointer s n st.sp := rfl

@[simp] theorem commitOuter_rip (s : State) (n : OpSize) (f : Frame) (st : StackItems) (r q : SegReg) (v : Word) :
    (commitOuter s n f st r q v).rip = f.ip := rfl

@[simp] theorem commitOuter_eflags (s : State) (n : OpSize) (f : Frame) (st : StackItems) (r q : SegReg) (v : Word) :
    (commitOuter s n f st r q v).eflags = writeFlagsProt s.eflags (Eflags.ofImage f.flags) n s.cpl := rfl

@[simp] theorem commitOuter_cr0PE (s : State) (n : OpSize) (f : Frame) (st : StackItems) (r q : SegReg) (v : Word) :
    (commitOuter s n f st r q v).cr0PE = s.cr0PE := rfl

@[simp] theorem commitOuter_cr0AM (s : State) (n : OpSize) (f : Frame) (st : StackItems) (r q : SegReg) (v : Word) :
    (commitOuter s n f st r q v).cr0AM = s.cr0AM := rfl

@[simp] theorem commitOuter_cr3 (s : State) (n : OpSize) (f : Frame) (st : StackItems) (r q : SegReg) (v : Word) :
    (commitOuter s n f st r q v).cr3 = s.cr3 := rfl

@[simp] theorem commitOuter_cr4CET (s : State) (n : OpSize) (f : Frame) (st : StackItems) (r q : SegReg) (v : Word) :
    (commitOuter s n f st r q v).cr4CET = s.cr4CET := rfl

@[simp] theorem commitOuter_cr4VME (s : State) (n : OpSize) (f : Frame) (st : StackItems) (r q : SegReg) (v : Word) :
    (commitOuter s n f st r q v).cr4VME = s.cr4VME := rfl

@[simp] theorem commitOuter_eferLMA (s : State) (n : OpSize) (f : Frame) (st : StackItems) (r q : SegReg) (v : Word) :
    (commitOuter s n f st r q v).eferLMA = s.eferLMA := rfl

@[simp] theorem commitOuter_uCet (s : State) (n : OpSize) (f : Frame) (st : StackItems) (r q : SegReg) (v : Word) :
    (commitOuter s n f st r q v).uCet = s.uCet := rfl

@[simp] theorem commitOuter_sCet (s : State) (n : OpSize) (f : Frame) (st : StackItems) (r q : SegReg) (v : Word) :
    (commitOuter s n f st r q v).sCet = s.sCet := rfl

@[simp] theorem commitOuter_pl3Ssp (s : State) (n : OpSize) (f : Frame) (st : StackItems) (r q : SegReg) (v : Word) :
    (commitOuter s n f st r q v).pl3Ssp = s.pl3Ssp := rfl

@[simp] theorem commitOuter_cs (s : State) (n : OpSize) (f : Frame) (st : StackItems) (r q : SegReg) (v : Word) :
    (commitOuter s n f st r q v).cs = r := rfl

@[simp] theorem commitOuter_ss (s : State) (n : OpSize) (f : Frame) (st : StackItems) (r q : SegReg) (v : Word) :
    (commitOuter s n f st r q v).ss = q := rfl

@[simp] theorem commitOuter_ds (s : State) (n : OpSize) (f : Frame) (st : StackItems) (r q : SegReg) (v : Word) :
    (commitOuter s n f st r q v).ds = nullifyIfInaccessible s.freeIdx .ds s.ds (selRpl f.cs) := rfl

@[simp] theorem commitOuter_es (s : State) (n : OpSize) (f : Frame) (st : StackItems) (r q : SegReg) (v : Word) :
    (commitOuter s n f st r q v).es = nullifyIfInaccessible s.freeIdx .es s.es (selRpl f.cs) := rfl

@[simp] theorem commitOuter_fs (s : State) (n : OpSize) (f : Frame) (st : StackItems) (r q : SegReg) (v : Word) :
    (commitOuter s n f st r q v).fs = nullifyIfInaccessible s.freeIdx .fs s.fs (selRpl f.cs) := rfl

@[simp] theorem commitOuter_gs (s : State) (n : OpSize) (f : Frame) (st : StackItems) (r q : SegReg) (v : Word) :
    (commitOuter s n f st r q v).gs = nullifyIfInaccessible s.freeIdx .gs s.gs (selRpl f.cs) := rfl

@[simp] theorem commitOuter_cpl (s : State) (n : OpSize) (f : Frame) (st : StackItems) (r q : SegReg) (v : Word) :
    (commitOuter s n f st r q v).cpl = selRpl f.cs := rfl

@[simp] theorem commitOuter_gdtr (s : State) (n : OpSize) (f : Frame) (st : StackItems) (r q : SegReg) (v : Word) :
    (commitOuter s n f st r q v).gdtr = s.gdtr := rfl

@[simp] theorem commitOuter_ldtr (s : State) (n : OpSize) (f : Frame) (st : StackItems) (r q : SegReg) (v : Word) :
    (commitOuter s n f st r q v).ldtr = s.ldtr := rfl

@[simp] theorem commitOuter_tr (s : State) (n : OpSize) (f : Frame) (st : StackItems) (r q : SegReg) (v : Word) :
    (commitOuter s n f st r q v).tr = s.tr := rfl

@[simp] theorem commitOuter_ssp (s : State) (n : OpSize) (f : Frame) (st : StackItems) (r q : SegReg) (v : Word) :
    (commitOuter s n f st r q v).ssp = v := rfl

@[simp] theorem commitOuter_nmiBlocked (s : State) (n : OpSize) (f : Frame) (st : StackItems) (r q : SegReg) (v : Word) :
    (commitOuter s n f st r q v).nmiBlocked = s.nmiBlocked := rfl

@[simp] theorem commitOuter_vmxNonRoot (s : State) (n : OpSize) (f : Frame) (st : StackItems) (r q : SegReg) (v : Word) :
    (commitOuter s n f st r q v).vmxNonRoot = s.vmxNonRoot := rfl

@[simp] theorem commitOuter_mem (s : State) (n : OpSize) (f : Frame) (st : StackItems) (r q : SegReg) (v : Word) :
    (commitOuter s n f st r q v).mem = s.mem := rfl

@[simp] theorem commitOuter_params (s : State) (n : OpSize) (f : Frame) (st : StackItems) (r q : SegReg) (v : Word) :
    (commitOuter s n f st r q v).params = s.params := rfl

@[simp] theorem commitOuter_translation (s : State) (n : OpSize) (f : Frame) (st : StackItems) (r q : SegReg) (v : Word) :
    (commitOuter s n f st r q v).translation = s.translation := rfl

@[simp] theorem commitOuter_tasks (s : State) (n : OpSize) (f : Frame) (st : StackItems) (r q : SegReg) (v : Word) :
    (commitOuter s n f st r q v).tasks = s.tasks := rfl

@[simp] theorem commitOuter_freeIdx (s : State) (n : OpSize) (f : Frame) (st : StackItems) (r q : SegReg) (v : Word) :
    (commitOuter s n f st r q v).freeIdx = s.freeIdx := rfl

/-! ### `commitV86` -/

@[simp] theorem commitV86_gprs (s : State) (f : Frame) (v : V86Items) : (commitV86 s f v).gprs = s.gprs := rfl

@[simp] theorem commitV86_rsp (s : State) (f : Frame) (v : V86Items) : (commitV86 s f v).rsp = writeEsp s (v.sp.setWidth 32) := rfl

@[simp] theorem commitV86_rip (s : State) (f : Frame) (v : V86Items) : (commitV86 s f v).rip = f.ip := rfl

@[simp] theorem commitV86_eflags (s : State) (f : Frame) (v : V86Items) : (commitV86 s f v).eflags = Eflags.ofImage f.flags := rfl

@[simp] theorem commitV86_cr0PE (s : State) (f : Frame) (v : V86Items) : (commitV86 s f v).cr0PE = s.cr0PE := rfl

@[simp] theorem commitV86_cr0AM (s : State) (f : Frame) (v : V86Items) : (commitV86 s f v).cr0AM = s.cr0AM := rfl

@[simp] theorem commitV86_cr3 (s : State) (f : Frame) (v : V86Items) : (commitV86 s f v).cr3 = s.cr3 := rfl

@[simp] theorem commitV86_cr4CET (s : State) (f : Frame) (v : V86Items) : (commitV86 s f v).cr4CET = s.cr4CET := rfl

@[simp] theorem commitV86_cr4VME (s : State) (f : Frame) (v : V86Items) : (commitV86 s f v).cr4VME = s.cr4VME := rfl

@[simp] theorem commitV86_eferLMA (s : State) (f : Frame) (v : V86Items) : (commitV86 s f v).eferLMA = s.eferLMA := rfl

@[simp] theorem commitV86_uCet (s : State) (f : Frame) (v : V86Items) : (commitV86 s f v).uCet = s.uCet := rfl

@[simp] theorem commitV86_sCet (s : State) (f : Frame) (v : V86Items) : (commitV86 s f v).sCet = s.sCet := rfl

@[simp] theorem commitV86_pl3Ssp (s : State) (f : Frame) (v : V86Items) : (commitV86 s f v).pl3Ssp = s.pl3Ssp := rfl

@[simp] theorem commitV86_cs (s : State) (f : Frame) (v : V86Items) : (commitV86 s f v).cs = v86SegLoad f.cs := rfl

@[simp] theorem commitV86_ss (s : State) (f : Frame) (v : V86Items) : (commitV86 s f v).ss = v86SegLoad v.ss := rfl

@[simp] theorem commitV86_ds (s : State) (f : Frame) (v : V86Items) : (commitV86 s f v).ds = v86SegLoad v.ds := rfl

@[simp] theorem commitV86_es (s : State) (f : Frame) (v : V86Items) : (commitV86 s f v).es = v86SegLoad v.es := rfl

@[simp] theorem commitV86_fs (s : State) (f : Frame) (v : V86Items) : (commitV86 s f v).fs = v86SegLoad v.fs := rfl

@[simp] theorem commitV86_gs (s : State) (f : Frame) (v : V86Items) : (commitV86 s f v).gs = v86SegLoad v.gs := rfl

@[simp] theorem commitV86_cpl (s : State) (f : Frame) (v : V86Items) : (commitV86 s f v).cpl = 3#2 := rfl

@[simp] theorem commitV86_gdtr (s : State) (f : Frame) (v : V86Items) : (commitV86 s f v).gdtr = s.gdtr := rfl

@[simp] theorem commitV86_ldtr (s : State) (f : Frame) (v : V86Items) : (commitV86 s f v).ldtr = s.ldtr := rfl

@[simp] theorem commitV86_tr (s : State) (f : Frame) (v : V86Items) : (commitV86 s f v).tr = s.tr := rfl

@[simp] theorem commitV86_ssp (s : State) (f : Frame) (v : V86Items) : (commitV86 s f v).ssp = s.ssp := rfl

@[simp] theorem commitV86_nmiBlocked (s : State) (f : Frame) (v : V86Items) : (commitV86 s f v).nmiBlocked = s.nmiBlocked := rfl

@[simp] theorem commitV86_vmxNonRoot (s : State) (f : Frame) (v : V86Items) : (commitV86 s f v).vmxNonRoot = s.vmxNonRoot := rfl

@[simp] theorem commitV86_mem (s : State) (f : Frame) (v : V86Items) : (commitV86 s f v).mem = s.mem := rfl

@[simp] theorem commitV86_params (s : State) (f : Frame) (v : V86Items) : (commitV86 s f v).params = s.params := rfl

@[simp] theorem commitV86_translation (s : State) (f : Frame) (v : V86Items) : (commitV86 s f v).translation = s.translation := rfl

@[simp] theorem commitV86_tasks (s : State) (f : Frame) (v : V86Items) : (commitV86 s f v).tasks = s.tasks := rfl

@[simp] theorem commitV86_freeIdx (s : State) (f : Frame) (v : V86Items) : (commitV86 s f v).freeIdx = s.freeIdx := rfl

/-! ### `enterTask` -/

@[simp] theorem enterTask_gprs (s : State) (t : TaskImage) : (enterTask s t).gprs = s.gprs := rfl

@[simp] theorem enterTask_rsp (s : State) (t : TaskImage) : (enterTask s t).rsp = t.rsp := rfl

@[simp] theorem enterTask_rip (s : State) (t : TaskImage) : (enterTask s t).rip = t.rip := rfl

@[simp] theorem enterTask_eflags (s : State) (t : TaskImage) : (enterTask s t).eflags = t.eflags := rfl

@[simp] theorem enterTask_cr0PE (s : State) (t : TaskImage) : (enterTask s t).cr0PE = s.cr0PE := rfl

@[simp] theorem enterTask_cr0AM (s : State) (t : TaskImage) : (enterTask s t).cr0AM = s.cr0AM := rfl

@[simp] theorem enterTask_cr3 (s : State) (t : TaskImage) : (enterTask s t).cr3 = t.cr3 := rfl

@[simp] theorem enterTask_cr4CET (s : State) (t : TaskImage) : (enterTask s t).cr4CET = s.cr4CET := rfl

@[simp] theorem enterTask_cr4VME (s : State) (t : TaskImage) : (enterTask s t).cr4VME = s.cr4VME := rfl

@[simp] theorem enterTask_eferLMA (s : State) (t : TaskImage) : (enterTask s t).eferLMA = s.eferLMA := rfl

@[simp] theorem enterTask_uCet (s : State) (t : TaskImage) : (enterTask s t).uCet = s.uCet := rfl

@[simp] theorem enterTask_sCet (s : State) (t : TaskImage) : (enterTask s t).sCet = s.sCet := rfl

@[simp] theorem enterTask_pl3Ssp (s : State) (t : TaskImage) : (enterTask s t).pl3Ssp = s.pl3Ssp := rfl

@[simp] theorem enterTask_cs (s : State) (t : TaskImage) : (enterTask s t).cs = t.cs := rfl

@[simp] theorem enterTask_ss (s : State) (t : TaskImage) : (enterTask s t).ss = t.ss := rfl

@[simp] theorem enterTask_ds (s : State) (t : TaskImage) : (enterTask s t).ds = t.ds := rfl

@[simp] theorem enterTask_es (s : State) (t : TaskImage) : (enterTask s t).es = t.es := rfl

@[simp] theorem enterTask_fs (s : State) (t : TaskImage) : (enterTask s t).fs = t.fs := rfl

@[simp] theorem enterTask_gs (s : State) (t : TaskImage) : (enterTask s t).gs = t.gs := rfl

@[simp] theorem enterTask_cpl (s : State) (t : TaskImage) : (enterTask s t).cpl = t.cpl := rfl

@[simp] theorem enterTask_gdtr (s : State) (t : TaskImage) : (enterTask s t).gdtr = s.gdtr := rfl

@[simp] theorem enterTask_ldtr (s : State) (t : TaskImage) : (enterTask s t).ldtr = t.ldtr := rfl

@[simp] theorem enterTask_tr (s : State) (t : TaskImage) : (enterTask s t).tr = t.tr := rfl

@[simp] theorem enterTask_ssp (s : State) (t : TaskImage) : (enterTask s t).ssp = switchedSsp s t := rfl

@[simp] theorem enterTask_nmiBlocked (s : State) (t : TaskImage) : (enterTask s t).nmiBlocked = s.nmiBlocked := rfl

@[simp] theorem enterTask_vmxNonRoot (s : State) (t : TaskImage) : (enterTask s t).vmxNonRoot = s.vmxNonRoot := rfl

@[simp] theorem enterTask_mem (s : State) (t : TaskImage) : (enterTask s t).mem = storeCells s.mem t.stores := rfl

@[simp] theorem enterTask_params (s : State) (t : TaskImage) : (enterTask s t).params = s.params := rfl

@[simp] theorem enterTask_translation (s : State) (t : TaskImage) : (enterTask s t).translation = t.translation := rfl

@[simp] theorem enterTask_tasks (s : State) (t : TaskImage) : (enterTask s t).tasks = s.tasks := rfl

@[simp] theorem enterTask_freeIdx (s : State) (t : TaskImage) : (enterTask s t).freeIdx = s.freeIdx := rfl

/-! ### What reads of the state the memory does not touch -/

/-- The mode does not depend on memory. -/
@[simp] theorem modeOf_mem (s : State) (m : Memory) : modeOf { s with mem := m } = modeOf s := rfl

@[simp] theorem dispatch_mem (s : State) (m : Memory) : dispatch { s with mem := m } = dispatch s := rfl

@[simp] theorem translate_mem (s : State) (m : Memory) (acc : Access) (a : Word) :
    translate { s with mem := m } acc a = translate s acc a := rfl

@[simp] theorem loadStackPointer_mem (s : State) (m : Memory) (n : OpSize) (v : Word) :
    loadStackPointer { s with mem := m } n v = loadStackPointer s n v := rfl

@[simp] theorem writeEsp_mem (s : State) (m : Memory) (v : BitVec 32) :
    writeEsp { s with mem := m } v = writeEsp s v := rfl

/-- Writing back the memory a state has changes nothing. -/
theorem State.with_mem_self (s : State) : { s with mem := s.mem } = s := rfl

end Sys2Proof.Machine
end

