-- ==== Sys2Proof/Laws/Memory.lean ====
section
/-! SUPPORT. Memory: a read after a write, and the canonical form, which every memory operation keeps. -/

namespace Sys2Proof.Machine

/-- A listed address is at least the bound of the form. -/
theorem Memory.read_below {lo a : Nat} {m : Memory} (h : Memory.wfFrom lo m = true) (ha : a < lo) :
    m.read a = 0#8 := by
  induction m generalizing lo with
  | nil => rfl
  | cons c m ih =>
    obtain ⟨k, b⟩ := c
    simp only [Memory.wfFrom, Bool.and_eq_true, decide_eq_true_eq] at h
    have hk : k ≠ a := by omega
    simp only [Memory.read, hk, ite_false]
    exact ih h.2 (by omega)

/-- Every listed address is at least the bound of the form. -/
theorem Memory.listed_ge {lo a : Nat} {m : Memory} {b : Byte} (h : Memory.wfFrom lo m = true) (hm : (a, b) ∈ m) :
    lo ≤ a := by
  induction m generalizing lo with
  | nil => cases hm
  | cons c m ih =>
    obtain ⟨k, v⟩ := c
    simp only [Memory.wfFrom, Bool.and_eq_true, decide_eq_true_eq] at h
    rcases List.mem_cons.mp hm with e | hm
    · cases e; exact h.1.1.1
    · have := ih h.2 hm; omega

/-- A memory in the form reads each listed byte. -/
theorem Memory.read_listed {lo a : Nat} {m : Memory} {b : Byte} (h : Memory.wfFrom lo m = true)
    (hm : (a, b) ∈ m) : m.read a = b := by
  induction m generalizing lo with
  | nil => cases hm
  | cons c m ih =>
    obtain ⟨k, v⟩ := c
    simp only [Memory.wfFrom, Bool.and_eq_true] at h
    rcases List.mem_cons.mp hm with e | hm
    · cases e; simp only [Memory.read, ite_true]
    · have hk : k ≠ a := by have := Memory.listed_ge h.2 hm; omega
      simp only [Memory.read, hk, ite_false]
      exact ih h.2 hm

/-- An address that is not listed reads 0. -/
theorem Memory.read_unlisted {a : Nat} {m : Memory} (h : ∀ b, (a, b) ∉ m) : m.read a = 0#8 := by
  induction m with
  | nil => rfl
  | cons c m ih =>
    obtain ⟨k, v⟩ := c
    have hk : k ≠ a := by rintro rfl; exact h v List.mem_cons_self
    simp only [Memory.read, hk, ite_false]
    exact ih fun b hb => h b (List.mem_cons_of_mem _ hb)

/-- A larger bound gives a smaller one. -/
theorem Memory.wfFrom_mono {lo lo' : Nat} {m : Memory} (h : Memory.wfFrom lo m = true) (hl : lo' ≤ lo) :
    Memory.wfFrom lo' m = true := by
  cases m with
  | nil => rfl
  | cons c m =>
    obtain ⟨k, b⟩ := c
    simp only [Memory.wfFrom, Bool.and_eq_true, decide_eq_true_eq] at h ⊢
    exact ⟨⟨⟨by omega, h.1.1.2⟩, h.1.2⟩, h.2⟩

/-- A write at an address the bound allows keeps the form. -/
theorem Memory.write_wfFrom {lo a : Nat} {m : Memory} (v : Byte) (h : Memory.wfFrom lo m = true) (hl : lo ≤ a)
    (ha : a < 2 ^ 64) : Memory.wfFrom lo (m.write a v) = true := by
  induction m generalizing lo with
  | nil =>
    by_cases hv : v = 0#8
    · simp [Memory.write, hv, Memory.wfFrom]
    · simp [Memory.write, hv, Memory.wfFrom, hl]; omega
  | cons c m ih =>
    obtain ⟨k, b⟩ := c
    have h0 := h
    simp only [Memory.wfFrom, Bool.and_eq_true, decide_eq_true_eq] at h
    by_cases hak : a < k
    · by_cases hv : v = 0#8
      · simpa [Memory.write, hak, hv] using h0
      · simp only [Memory.write, hak, hv, ite_true, ite_false, Memory.wfFrom, Bool.and_eq_true,
          decide_eq_true_eq]
        exact ⟨⟨⟨hl, ha⟩, by simpa using hv⟩, ⟨⟨by omega, h.1.1.2⟩, h.1.2⟩, h.2⟩
    · by_cases hke : a = k
      · by_cases hv : v = 0#8
        · simpa [Memory.write, hak, hke, hv] using Memory.wfFrom_mono h.2 (by omega)
        · subst hke
          simp only [Memory.write, hv, lt_irrefl, ite_true, ite_false, Memory.wfFrom,
            Bool.and_eq_true, decide_eq_true_eq]
          exact ⟨⟨⟨hl, ha⟩, by simpa using hv⟩, h.2⟩
      · simp only [Memory.write, hak, hke, ite_false, Memory.wfFrom, Bool.and_eq_true, decide_eq_true_eq]
        exact ⟨h.1, ih h.2 (by omega)⟩

/-- A write keeps the canonical form. -/
theorem Memory.write_wf {a : Nat} {m : Memory} (v : Byte) (h : m.wf = true) (ha : a < 2 ^ 64) :
    (m.write a v).wf = true :=
  Memory.write_wfFrom v h (Nat.zero_le a) ha

/-- A read after a write to the same address gives the value written. -/
theorem Memory.read_write_same_from {lo a : Nat} {m : Memory} (v : Byte) (h : Memory.wfFrom lo m = true) :
    (m.write a v).read a = v := by
  induction m generalizing lo with
  | nil => by_cases hv : v = 0#8 <;> simp [Memory.write, Memory.read, hv]
  | cons c m ih =>
    obtain ⟨k, b⟩ := c
    have h0 := h
    simp only [Memory.wfFrom, Bool.and_eq_true, decide_eq_true_eq] at h
    by_cases hak : a < k
    · by_cases hv : v = 0#8
      · have := Memory.read_below (Memory.wfFrom_mono (lo' := k) (by
          simp only [Memory.wfFrom, Bool.and_eq_true, decide_eq_true_eq]
          exact ⟨⟨⟨le_refl k, h.1.1.2⟩, h.1.2⟩, h.2⟩ : Memory.wfFrom k ((k, b) :: m) = true) (le_refl k)) hak
        simpa [Memory.write, hak, hv] using this
      · simp [Memory.write, hak, hv, Memory.read]
    · by_cases hke : a = k
      · subst hke
        by_cases hv : v = 0#8
        · simpa [Memory.write, hv] using Memory.read_below h.2 (Nat.lt_succ_self a)
        · simp [Memory.write, hv, Memory.read]
      · have hka : k ≠ a := fun e => hke e.symm
        simp only [Memory.write, hak, hke, hka, ite_false, Memory.read]
        exact ih h.2

/-- A read after a write to the same address gives the value written, in canonical memory. -/
theorem Memory.read_write_same {a : Nat} {m : Memory} (v : Byte) (h : m.wf = true) : (m.write a v).read a = v :=
  Memory.read_write_same_from v h

/-- A write leaves every other address alone. -/
theorem Memory.read_write_other {a c : Nat} (m : Memory) (v : Byte) (hne : a ≠ c) :
    (m.write a v).read c = m.read c := by
  induction m with
  | nil => by_cases hv : v = 0#8 <;> simp [Memory.write, Memory.read, hv, hne]
  | cons p m ih =>
    obtain ⟨k, b⟩ := p
    by_cases hak : a < k
    · by_cases hv : v = 0#8 <;> simp [Memory.write, Memory.read, hak, hv, hne]
    · by_cases hke : a = k
      · subst hke
        by_cases hv : v = 0#8 <;> simp [Memory.write, Memory.read, hv, hne]
      · simp only [Memory.write, hak, hke, ite_false, Memory.read, ih]

/-- The stores of a task switch are made in their order. -/
theorem storeCells_eq_foldl (cells : List (Word × Byte)) (m : Memory) :
    storeCells m cells = cells.foldl (fun m c => m.write c.1.toNat c.2) m := by
  induction cells generalizing m with
  | nil => rfl
  | cons c cells ih => exact ih (m.write c.1.toNat c.2)

/-- The stores of a task switch keep the canonical form. -/
theorem storeCells_wf (cells : List (Word × Byte)) {m : Memory} (h : m.wf = true) :
    (storeCells m cells).wf = true := by
  induction cells generalizing m with
  | nil => exact h
  | cons c cells ih => exact ih (Memory.write_wf c.2 h c.1.isLt)

/-- Memory after reset has the canonical form. -/
theorem reset_mem_wf : State.reset.mem.wf = true := rfl

end Sys2Proof.Machine
end

