-- ==== Sys2Proof/Laws/Checks.lean ====
section
/-! SUPPORT. The combinators of checks: what an answer of each says of its parts. -/

namespace Sys2Proof.Machine

/-- A sequence of checks answers exactly when its parts answer. -/
theorem check_bind_ok {α β : Type} {c : Check α} {g : α → Check β} {b : β} :
    (c >>= g) = .ok b ↔ ∃ a, c = .ok a ∧ g a = .ok b := by
  cases c with
  | error e => exact ⟨fun h => (Except.noConfusion rfl rfl (heq_of_eq h)), fun ⟨_, h, _⟩ => nomatch h⟩
  | ok a => exact ⟨fun h => ⟨a, rfl, h⟩, fun ⟨_, h, hb⟩ => by cases h; exact hb⟩

/-- A passed check is followed by the rest. -/
@[simp] theorem check_ok_bind {α β : Type} (a : α) (g : α → Check β) : ((.ok a : Check α) >>= g) = g a := rfl

/-- A check that stops ends the sequence. -/
@[simp] theorem check_error_bind {α β : Type} (e : Stop) (g : α → Check β) :
    ((.error e : Check α) >>= g) = .error e := rfl

/-- `require` passes exactly when its condition holds. -/
@[simp] theorem require_ok {b : Bool} {x : Exception} {u : Unit} : require b x = .ok u ↔ b = true := by
  cases b <;> simp [require]

@[simp] theorem require_true (x : Exception) : require true x = .ok () := rfl

@[simp] theorem require_false (x : Exception) : require false x = .error (.exc x) := rfl

/-- `refusing` answers what the check answers. -/
@[simp] theorem refusing_ok {α : Type} {r : Refusal} {c : Check α} {v : α} :
    refusing r c = .ok v ↔ c = .ok v := by
  unfold refusing
  split <;> simp_all

/-- `refusing` never raises. -/
theorem refusing_not_exc {α : Type} {r : Refusal} {c : Check α} {x : Exception} :
    refusing r c ≠ .error (.exc x) := by
  unfold refusing
  split <;> simp

/-- `finish` gives a next state exactly from an answer, which it retires. -/
theorem finish_next {s t : State} {c : Check State} :
    finish s c = .next t ↔ ∃ u, c = .ok u ∧ t = retire u := by
  unfold finish
  split
  · simp [eq_comm]
  · simp [raise]
  · simp

/-- `finish` faults exactly from an exception, with the state before the instruction and NMIs unblocked. -/
theorem finish_fault {s : State} {c : Check State} {f : Fault} :
    finish s c = .fault f ↔ ∃ x, c = .error (.exc x) ∧ f = .exception x (unblockNmi s) := by
  unfold finish
  split
  · simp
  · simp [raise, eq_comm]
  · simp

end Sys2Proof.Machine
end

