-- ==== Sys2Proof/Laws/Access.lean ====
section
/-! SUPPORT. What each memory operation of the machine can do: which bytes it changes, and that it changes memory
alone. -/

namespace Sys2Proof.Machine

/-- `modifyByte` answers exactly with the byte at the translated address replaced. -/
theorem modifyByte_ok {s u : State} {acc : Access} {a : Word} {f : Byte → Byte} :
    modifyByte s acc a f = .ok u ↔ ∃ pa, translate s acc a = .ok pa
      ∧ u = { s with mem := s.mem.write pa.toNat (f (s.mem.read pa.toNat)) } := by
  unfold modifyByte
  rw [check_bind_ok]
  constructor
  · rintro ⟨pa, h, hu⟩
    exact ⟨pa, h, by cases hu; rfl⟩
  · rintro ⟨pa, h, rfl⟩
    exact ⟨pa, h, rfl⟩

/-- The lookup in `Translate` answers as the first rule that covers the access says, and the identity where none does. -/
theorem lookupTranslation_find (acc : Access) (la : Word) (rules : List TransRule) :
    lookupTranslation acc la rules =
      match rules.find? (fun r => decide (r.access = acc ∧ r.first ≤ la ∧ la ≤ r.last)) with
      | none => .ok la
      | some r => match r.result with
        | .physical base => .ok (base + (la - r.first))
        | .pageFault code => .error (.exc (.pf code la)) := by
  induction rules with
  | nil => rfl
  | cons r rules ih =>
    unfold lookupTranslation
    by_cases h : r.access = acc ∧ r.first ≤ la ∧ la ≤ r.last
    · cases hr : r.result <;> simp [h, hr]
    · rw [if_neg h, List.find?_cons_of_neg (by rw [decide_eq_false h]; exact Bool.false_ne_true), ih]

/-- A lookup in `Translate` stops with a page fault alone, at the address looked up. -/
theorem lookupTranslation_error {acc : Access} {la : Word} {rules : List TransRule} {e : Stop}
    (h : lookupTranslation acc la rules = .error e) : ∃ code, e = .exc (.pf code la) := by
  induction rules with
  | nil => cases h
  | cons r rules ih =>
    unfold lookupTranslation at h
    split at h
    · split at h
      · cases h
      · cases h; exact ⟨_, rfl⟩
    · exact ih h

/-- A translation stops with a page fault alone. -/
theorem translate_error {s : State} {acc : Access} {a : Word} {e : Stop} (h : translate s acc a = .error e) :
    ∃ code, e = .exc (.pf code (linearAddr s a)) := by
  unfold translate at h
  split at h
  · exact lookupTranslation_error h
  · cases h

/-- `modifyByte` stops exactly as the translation of its address does. -/
theorem modifyByte_error {s : State} {acc : Access} {a : Word} {f : Byte → Byte} {e : Stop} :
    modifyByte s acc a f = .error e ↔ translate s acc a = .error e := by
  unfold modifyByte
  cases translate s acc a with
  | error d => simp
  | ok pa => simp

/-- The state `u` is `s` with a memory that keeps the canonical form and differs at most in the translated bytes of
the targets. -/
def storesOnly (s u : State) (targets : List (Access × Word)) : Prop :=
  ∃ m, u = { s with mem := m } ∧ (s.mem.wf = true → m.wf = true)
    ∧ ∀ c, (∀ p ∈ targets, ∀ pa, translate s p.1 p.2 = .ok pa → pa.toNat ≠ c) → m.read c = s.mem.read c

/-- Storing nothing. -/
theorem storesOnly_refl (s : State) (l : List (Access × Word)) : storesOnly s s l :=
  ⟨s.mem, rfl, id, fun _ _ => rfl⟩

/-- Two stores one after the other; the second sees the translations of the first. -/
theorem storesOnly_trans {s u v : State} {l l' : List (Access × Word)} (h : storesOnly s u l)
    (h' : storesOnly u v l') : storesOnly s v (l ++ l') := by
  obtain ⟨m, rfl, hw, hr⟩ := h
  obtain ⟨m', rfl, hw', hr'⟩ := h'
  refine ⟨m', rfl, fun hs => hw' (hw hs), fun c hc => ?_⟩
  rw [hr' c fun p hp => hc p (List.mem_append_right _ hp)]
  exact hr c fun p hp => hc p (List.mem_append_left _ hp)

/-- A store to more targets than named. -/
theorem storesOnly_mono {s u : State} {l l' : List (Access × Word)} (h : storesOnly s u l)
    (hl : ∀ p ∈ l, p ∈ l') : storesOnly s u l' := by
  obtain ⟨m, rfl, hw, hr⟩ := h
  exact ⟨m, rfl, hw, fun c hc => hr c fun p hp => hc p (hl p hp)⟩

/-- One byte replaced. -/
theorem modifyByte_storesOnly {s u : State} {acc : Access} {a : Word} {f : Byte → Byte}
    (h : modifyByte s acc a f = .ok u) : storesOnly s u [(acc, a)] := by
  obtain ⟨pa, hp, rfl⟩ := modifyByte_ok.mp h
  refine ⟨_, rfl, fun hw => Memory.write_wf _ hw pa.isLt, fun c hc => Memory.read_write_other _ _ ?_⟩
  exact hc (acc, a) (List.mem_singleton.mpr rfl) pa hp

/-- `storeV` stores the bytes at `a`, `a + 1`, ..., and nothing else. -/
theorem storeV_storesOnly {n : Nat} {s u : State} {acc : Access} {a v : Word} (h : storeV s acc a n v = .ok u) :
    storesOnly s u ((List.range n).map fun k => (acc, a + BitVec.ofNat 64 k)) := by
  induction n generalizing s a v with
  | zero => cases h; exact storesOnly_refl _ _
  | succ n ih =>
    obtain ⟨t, ht, hu⟩ := check_bind_ok.mp h
    refine storesOnly_mono (storesOnly_trans (modifyByte_storesOnly ht) (ih hu)) ?_
    intro p hp
    rcases List.mem_append.mp hp with hp | hp
    · exact List.mem_map.mpr ⟨0, by simp, by simp at hp; simp [hp]⟩
    · obtain ⟨k, hk, rfl⟩ := List.mem_map.mp hp
      refine List.mem_map.mpr ⟨k + 1, by simp at hk ⊢; omega, ?_⟩
      refine Prod.ext rfl ?_
      change a + BitVec.ofNat 64 (k + 1) = a + 1#64 + BitVec.ofNat 64 k
      rw [BitVec.add_assoc, ← BitVec.ofNat_add, Nat.add_comm]

/-- A token access stores at most the eight bytes of the token. -/
theorem tokenFree_storesOnly {s u : State} {la : Word} (h : tokenFree s la = .ok u) :
    storesOnly s u (tokenTargets s (some la)) := by
  unfold tokenFree at h
  obtain ⟨old, -, h2⟩ := check_bind_ok.mp (refusing_ok.mp h)
  split at h2
  · exact storeV_storesOnly h2
  · cases h2; exact storesOnly_refl s _

/-- The optional token access. -/
theorem freeToken_storesOnly {s u : State} {token : Option Word} (h : freeToken s token = .ok u) :
    storesOnly s u (tokenTargets s token) := by
  cases token with
  | none => cases h; exact storesOnly_refl s _
  | some la => exact tokenFree_storesOnly h

/-- The byte an accessed-bit write stores to. -/
def markByte : Option Word → List (Access × Word)
  | none => []
  | some desc => [(.supervisorWrite, desc + 5#64)]

/-- An accessed-bit write stores one byte. -/
theorem markAccessed_storesOnly {s u : State} {mark : Option Word} (h : markAccessed s mark = .ok u) :
    storesOnly s u (markByte mark) := by
  cases mark with
  | none => cases h; exact storesOnly_refl s _
  | some desc =>
    have hm : modifyByte s .supervisorWrite (desc + 5#64) (fun b => b ||| 1#8) = .ok u := h
    exact modifyByte_storesOnly hm

/-- The only way an accessed-bit write raises is a page fault. -/
theorem markAccessed_exc {s : State} {mark : Option Word} {x : Exception}
    (h : markAccessed s mark = .error (.exc x)) : ∃ code la, x = .pf code la := by
  cases mark with
  | none => cases h
  | some desc =>
    have hm : modifyByte s .supervisorWrite (desc + 5#64) (fun b => b ||| 1#8) = .error (.exc x) := h
    obtain ⟨code, hx⟩ := translate_error (modifyByte_error.mp hm)
    exact ⟨code, _, by injection hx⟩

/-- The stores of a Commit. -/
theorem commitStores_storesOnly {s u : State} {cs ss token : Option Word}
    (h : commitStores s cs ss token = .ok u) :
    storesOnly s u (markByte cs ++ markByte ss ++ tokenTargets s token) := by
  obtain ⟨s1, h1, h⟩ := check_bind_ok.mp h
  obtain ⟨s2, h2, h3⟩ := check_bind_ok.mp h
  have e1 := markAccessed_storesOnly h1
  have e2 := markAccessed_storesOnly h2
  have e12 := storesOnly_trans e1 e2
  refine storesOnly_trans e12 ?_
  have := freeToken_storesOnly h3
  obtain ⟨m, rfl, -⟩ := e12
  exact this

/-- A Commit without accessed bits and without a token stores nothing. -/
@[simp] theorem commitStores_none (s : State) : commitStores s none none none = .ok s := rfl

/-- The stores of a Commit stop as the accessed-bit write of CS does. -/
theorem commitStores_cs_error {s : State} {cs ss token : Option Word} {e : Stop}
    (h : markAccessed s cs = .error e) : commitStores s cs ss token = .error e := by
  unfold commitStores
  rw [h, check_error_bind]

/-- Once that of CS is made, they stop as the accessed-bit write of SS does. -/
theorem commitStores_ss_error {s u : State} {cs ss token : Option Word} {e : Stop}
    (hc : markAccessed s cs = .ok u) (h : markAccessed u ss = .error e) : commitStores s cs ss token = .error e := by
  unfold commitStores
  rw [hc, check_ok_bind, h, check_error_bind]

/-- The only way the stores of a Commit raise is a page fault of an accessed-bit write; the token access never does. -/
theorem commitStores_exc {s : State} {cs ss token : Option Word} {x : Exception}
    (h : commitStores s cs ss token = .error (.exc x)) : ∃ code la, x = .pf code la := by
  unfold commitStores at h
  match h1 : markAccessed s cs with
  | .error e => rw [h1] at h; cases h; exact markAccessed_exc h1
  | .ok s1 =>
    rw [h1] at h
    match h2 : markAccessed s1 ss with
    | .error e => simp only [check_ok_bind, h2] at h; cases h; exact markAccessed_exc h2
    | .ok s2 =>
      simp only [check_ok_bind, h2] at h
      cases token with
      | none => cases h
      | some la => exact (refusing_not_exc h).elim

/-- A read of `n` bytes is below `2^(8n)`, for at most eight bytes. -/
theorem loadV_lt {n : Nat} {s : State} {acc : Access} {a v : Word} (hn : n ≤ 8) (h : loadV s acc a n = .ok v) :
    v.toNat < 2 ^ (8 * n) := by
  induction n generalizing a v with
  | zero => cases h; simp
  | succ n ih =>
    obtain ⟨b, -, h⟩ := check_bind_ok.mp h
    obtain ⟨w, hw, h⟩ := check_bind_ok.mp h
    cases h
    have := ih (by omega) hw
    rw [BitVec.toNat_or]
    refine Nat.or_lt_two_pow ?_ ?_
    · rw [BitVec.toNat_shiftLeft]
      refine lt_of_le_of_lt (Nat.mod_le _ _) ?_
      rw [Nat.shiftLeft_eq, show 8 * (n + 1) = 8 * n + 8 by ring, pow_add]
      exact Nat.mul_lt_mul_of_pos_right this (by norm_num)
    · have hb : (b.setWidth 64).toNat < 2 ^ 8 := by
        rw [BitVec.toNat_setWidth]
        exact lt_of_le_of_lt (Nat.mod_le _ _) b.isLt
      exact lt_of_lt_of_le hb (Nat.pow_le_pow_right (by norm_num) (by omega))

/-- A read of bytes stops with a page fault alone. -/
theorem loadV_error {n : Nat} {s : State} {acc : Access} {a : Word} {e : Stop} (h : loadV s acc a n = .error e) :
    ∃ code la, e = .exc (.pf code la) := by
  induction n generalizing a with
  | zero => cases h
  | succ n ih =>
    unfold loadV loadByte at h
    cases ht : translate s acc a with
    | error d =>
      rw [ht, check_error_bind, check_error_bind] at h
      cases h
      obtain ⟨code, rfl⟩ := translate_error ht
      exact ⟨code, _, rfl⟩
    | ok pa =>
      rw [ht, check_ok_bind, check_ok_bind] at h
      cases hl : loadV s acc (a + 1#64) n with
      | error d => rw [hl] at h; cases h; exact ih hl
      | ok v => rw [hl] at h; cases h

/-- A popped item of `n` bytes is zero-extended (40_iret_common.md R120, R121). -/
theorem popAt_lt {s : State} {n : OpSize} {k : Nat} {v : Word} (h : popAt s n k = .ok v) :
    v.toNat < 2 ^ (8 * n.bytes) := by
  unfold popAt stackRead at h
  obtain ⟨_, -, h⟩ := check_bind_ok.mp h
  obtain ⟨_, -, h⟩ := check_bind_ok.mp h
  exact loadV_lt (by cases n <;> decide) h

/-- A byte read in another memory goes through the same translation. -/
theorem loadByte_mem (s : State) (m : Memory) (acc : Access) (a : Word) :
    loadByte { s with mem := m } acc a = (translate s acc a).map fun pa => m.read pa.toNat := by
  unfold loadByte
  rw [translate_mem]
  cases translate s acc a <;> rfl

end Sys2Proof.Machine
end

