-- ==== Sys2Proof/Laws/Paths.lean ====
section
/-! SUPPORT. What each path of an execution can answer, said once: the checks it passed and the state it commits. -/

namespace Sys2Proof.Machine

/-- A popped selector is the low half-word of a popped item. -/
theorem popSel_ok {s : State} {n : OpSize} {k : Nat} {v : Sel} :
    popSel s n k = .ok v ↔ ∃ w, popAt s n k = .ok w ∧ v = w.setWidth 16 := by
  unfold popSel
  rw [check_bind_ok]
  exact exists_congr fun w => and_congr_right fun _ => ⟨fun h => by cases h; rfl, fun h => by rw [h]⟩

/-- The first three pops answer exactly when each does. -/
theorem popFrame_ok {s : State} {n : OpSize} {f : Frame} :
    popFrame s n = .ok f ↔ ∃ ip cs fl, popAt s n 0 = .ok ip ∧ popAt s n 1 = .ok cs ∧ popAt s n 2 = .ok fl
      ∧ f = ⟨ip, cs.setWidth 16, fl⟩ := by
  unfold popFrame
  simp only [check_bind_ok, popSel_ok]
  constructor
  · rintro ⟨ip, h0, _, ⟨cs, h1, rfl⟩, fl, h2, h⟩
    cases h
    exact ⟨ip, cs, fl, h0, h1, h2, rfl⟩
  · rintro ⟨ip, cs, fl, h0, h1, h2, rfl⟩
    exact ⟨ip, h0, _, ⟨cs, h1, rfl⟩, fl, h2, rfl⟩

/-- The two pops of a stack switch. -/
theorem popStack_ok {s : State} {n : OpSize} {t : StackItems} :
    popStack s n = .ok t ↔ ∃ sp ss, popAt s n 3 = .ok sp ∧ popAt s n 4 = .ok ss ∧ t = ⟨sp, ss.setWidth 16⟩ := by
  unfold popStack
  simp only [check_bind_ok, popSel_ok]
  constructor
  · rintro ⟨sp, h0, _, ⟨ss, h1, rfl⟩, h⟩
    cases h
    exact ⟨sp, ss, h0, h1, rfl⟩
  · rintro ⟨sp, ss, h0, h1, rfl⟩
    exact ⟨sp, h0, _, ⟨ss, h1, rfl⟩, rfl⟩

/-- The six further pops of a return to virtual-8086 mode. -/
theorem popV86Items_ok {s : State} {v : V86Items} :
    popV86Items s = .ok v ↔ ∃ sp ss es ds fs gs, popAt s .w32 3 = .ok sp ∧ popAt s .w32 4 = .ok ss
      ∧ popAt s .w32 5 = .ok es ∧ popAt s .w32 6 = .ok ds ∧ popAt s .w32 7 = .ok fs ∧ popAt s .w32 8 = .ok gs
      ∧ v = ⟨sp, ss.setWidth 16, es.setWidth 16, ds.setWidth 16, fs.setWidth 16, gs.setWidth 16⟩ := by
  unfold popV86Items
  simp only [check_bind_ok, popSel_ok]
  constructor
  · rintro ⟨sp, h3, _, ⟨ss, h4, rfl⟩, _, ⟨es, h5, rfl⟩, _, ⟨ds, h6, rfl⟩, _, ⟨fs, h7, rfl⟩, _, ⟨gs, h8, rfl⟩, h⟩
    cases h
    exact ⟨sp, ss, es, ds, fs, gs, h3, h4, h5, h6, h7, h8, rfl⟩
  · rintro ⟨sp, ss, es, ds, fs, gs, h3, h4, h5, h6, h7, h8, rfl⟩
    exact ⟨sp, h3, _, ⟨ss, h4, rfl⟩, _, ⟨es, h5, rfl⟩, _, ⟨ds, h6, rfl⟩, _, ⟨fs, h7, rfl⟩, _, ⟨gs, h8, rfl⟩, rfl⟩

/-- Real-address mode (41 R140, R141). -/
theorem realAddressMode_ok {n : OpSize} {s t : State} :
    realAddressMode n s = .ok t ↔ ∃ f, popFrame s n = .ok f ∧ f.ip.toNat ≤ s.cs.limit.toNat
      ∧ t = { s with
        rip := f.ip
        cs := realSegLoad s.cs f.cs
        eflags := writeFlagsReal s.eflags (Eflags.ofImage f.flags) n
        rsp := stackPointerAdvance s (slotOffset s n 3) } := by
  unfold realAddressMode
  simp only [check_bind_ok, require_ok, ipWithinLimit, decide_eq_true_eq]
  constructor
  · rintro ⟨f, hf, _, hl, h⟩
    cases h
    exact ⟨f, hf, hl, rfl⟩
  · rintro ⟨f, hf, hl, rfl⟩
    exact ⟨f, hf, (), hl, rfl⟩

/-- The limit of a virtual-8086 segment is FFFFH (41 R147). -/
theorem ipWithinLimit_v86 {c : Sel} {ip : Word} :
    ipWithinLimit (v86SegLoad c) ip = true ↔ ip.toNat ≤ 0xFFFF := by
  unfold ipWithinLimit
  exact decide_eq_true_iff

/-- Return within virtual-8086 mode (41 R144 to R146). -/
theorem returnFromVirtual8086_ok {n : OpSize} {s t : State} :
    returnFromVirtual8086 n s = .ok t ↔ s.eflags.IOPL = 3#2 ∧ ∃ f, popFrame s n = .ok f ∧ f.ip.toNat ≤ 0xFFFF
      ∧ t = { s with
        rip := f.ip
        cs := v86SegLoad f.cs
        eflags := writeFlagsV86 s.eflags (Eflags.ofImage f.flags) n
        rsp := stackPointerAdvance s (slotOffset s n 3) } := by
  unfold returnFromVirtual8086
  simp only [check_bind_ok, require_ok, ipWithinLimit_v86, beq_iff_eq]
  constructor
  · rintro ⟨_, hi, f, hf, _, hl, h⟩
    cases h
    exact ⟨hi, f, hf, hl, rfl⟩
  · rintro ⟨hi, f, hf, hl, rfl⟩
    exact ⟨(), hi, f, hf, (), hl, rfl⟩

/-- Return to an outer privilege level (44 R215). -/
theorem returnToOuter_ok {n : OpSize} {s t : State} {f : Frame} {newCS : LoadedSeg} :
    returnToOuter n s f newCS = .ok t ↔ ∃ st newSS sh u, popStack s n = .ok st
      ∧ returnSSCheck s st.ss (selRpl f.cs) newCS.seg = .ok newSS ∧ ipAccepted s newCS.seg f.ip = true
      ∧ shadowOuterChecks s (selRpl f.cs) f.cs newCS.seg f.ip = .ok sh
      ∧ commitStores s newCS.mark newSS.mark sh.token = .ok u
      ∧ t = commitOuter u n f st newCS.seg newSS.seg sh.ssp := by
  unfold returnToOuter
  simp only [check_bind_ok, require_ok]
  constructor
  · rintro ⟨st, h1, q, h2, _, h3, sh, h4, u, h5, h⟩
    cases h
    exact ⟨st, q, sh, u, h1, h2, h3, h4, h5, rfl⟩
  · rintro ⟨st, q, sh, u, h1, h2, h3, h4, h5, rfl⟩
    exact ⟨st, h1, q, h2, (), h3, sh, h4, u, h5, rfl⟩

/-- Return to the same privilege level, three items (44 R219). -/
theorem returnToSame_ok {n : OpSize} {s t : State} {f : Frame} {newCS : LoadedSeg} :
    returnToSame n s f newCS = .ok t ↔ ∃ sh u, ipAccepted s newCS.seg f.ip = true
      ∧ shadowSameChecks s f.cs newCS.seg f.ip = .ok sh ∧ commitStores s newCS.mark none sh.token = .ok u
      ∧ t = { commitReturn u n f newCS.seg with
        rsp := stackPointerAdvance s (slotOffset s n 3)
        ssp := sh.ssp } := by
  unfold returnToSame
  simp only [check_bind_ok, require_ok]
  constructor
  · rintro ⟨_, h3, sh, h4, u, h5, h⟩
    cases h
    exact ⟨sh, u, h3, h4, h5, rfl⟩
  · rintro ⟨sh, u, h3, h4, h5, rfl⟩
    exact ⟨(), h3, sh, h4, u, h5, rfl⟩

/-- Return to the same privilege level begun in 64-bit mode (43 R193). -/
theorem returnToSameSwitch_ok {n : OpSize} {s t : State} {f : Frame} {newCS : LoadedSeg} :
    returnToSameSwitch n s f newCS = .ok t ↔ ∃ st newSS sh u, popStack s n = .ok st
      ∧ returnSSCheck s st.ss (selRpl f.cs) newCS.seg = .ok newSS ∧ ipAccepted s newCS.seg f.ip = true
      ∧ shadowSameChecks s f.cs newCS.seg f.ip = .ok sh
      ∧ commitStores s newCS.mark newSS.mark sh.token = .ok u
      ∧ t = { commitReturn u n f newCS.seg with
        rsp := loadStackPointer s n st.sp
        ss := newSS.seg
        ssp := sh.ssp } := by
  unfold returnToSameSwitch
  simp only [check_bind_ok, require_ok]
  constructor
  · rintro ⟨st, h1, q, h2, _, h3, sh, h4, u, h5, h⟩
    cases h
    exact ⟨st, q, sh, u, h1, h2, h3, h4, h5, rfl⟩
  · rintro ⟨st, q, sh, u, h1, h2, h3, h4, h5, rfl⟩
    exact ⟨st, h1, q, h2, (), h3, sh, h4, u, h5, rfl⟩

/-- Return to virtual-8086 mode (42 R166 to R169). -/
theorem returnToVirtual8086_ok {s t : State} {f : Frame} :
    returnToVirtual8086 s f = .ok t ↔ ∃ v u, v86CetGate s = false ∧ f.ip.toNat ≤ 0xFFFF ∧ popV86Items s = .ok v
      ∧ (shadowStackEnabled s 0#2 = false ∨ aligned8 s.ssp = true) ∧ freeToken s (v86Token s) = .ok u
      ∧ t = commitV86 u f v := by
  unfold returnToVirtual8086
  simp only [check_bind_ok, require_ok, ipWithinLimit_v86, Bool.or_eq_true, Bool.not_eq_true']
  constructor
  · rintro ⟨_, h1, _, h2, v, h3, _, h4, u, h5, h⟩
    cases h
    exact ⟨v, u, h1, h2, h3, h4, h5, rfl⟩
  · rintro ⟨v, u, h1, h2, h3, h4, h5, rfl⟩
    exact ⟨(), h1, (), h2, v, h3, (), h4, u, h5, rfl⟩

/-- Protected mode without a task return (42 R161, R162, R171). -/
theorem protectedMode_ok {n : OpSize} {s t : State} :
    protectedMode n s = .ok t ↔ ∃ f, popFrame s n = .ok f ∧
      ((returnsToV86 s f = true ∧ returnToVirtual8086 s f = .ok t)
      ∨ (returnsToV86 s f = false ∧ ∃ c, returnCSCheck s f.cs = .ok c ∧
        ((s.cpl < selRpl f.cs ∧ returnToOuter n s f c = .ok t)
        ∨ (¬ s.cpl < selRpl f.cs ∧ returnToSame n s f c = .ok t)))) := by
  unfold protectedMode protectedModeReturn
  simp only [check_bind_ok]
  refine exists_congr fun f => and_congr_right fun _ => ?_
  by_cases hv : returnsToV86 s f = true
  · simp [hv]
  · simp only [Bool.not_eq_true] at hv
    simp only [hv, if_false, check_bind_ok, false_and, false_or, true_and, Bool.false_eq_true]
    refine exists_congr fun c => and_congr_right fun _ => ?_
    by_cases hc : s.cpl < selRpl f.cs <;> simp [hc]

/-- IA-32e mode (43 R190, R191). -/
theorem ia32eMode_ok {n : OpSize} {s t : State} :
    ia32eMode n s = .ok t ↔ s.eflags.NT = false ∧ ∃ f, popFrame s n = .ok f ∧ ∃ c, returnCSCheck s f.cs = .ok c ∧
      ((s.cpl < selRpl f.cs ∧ returnToOuter n s f c = .ok t)
      ∨ (¬ s.cpl < selRpl f.cs ∧ modeOf s = .long64 ∧ returnToSameSwitch n s f c = .ok t)
      ∨ (¬ s.cpl < selRpl f.cs ∧ modeOf s ≠ .long64 ∧ returnToSame n s f c = .ok t)) := by
  unfold ia32eMode
  simp only [check_bind_ok, require_ok, Bool.not_eq_true']
  constructor
  · rintro ⟨_, hn, f, hf, c, hc, h⟩
    refine ⟨hn, f, hf, c, hc, ?_⟩
    by_cases h1 : s.cpl < selRpl f.cs
    · simpa [h1] using h
    · by_cases h2 : modeOf s = .long64
      · simpa [h1, h2] using h
      · simpa [h1, h2] using h
  · rintro ⟨hn, f, hf, c, hc, h⟩
    refine ⟨(), hn, f, hf, c, hc, ?_⟩
    rcases h with ⟨h1, h⟩ | ⟨h1, h2, h⟩ | ⟨h1, h2, h⟩
    · simpa [h1] using h
    · simpa [h1, h2] using h
    · simpa [h1, h2] using h

/-- The dispatch by mode (40_iret_common.md R114). -/
theorem dispatch_eq (s : State) : dispatch s = match modeOf s with
    | .real => .realAddress
    | .v8086 => .fromV86
    | .protectedMode => .protectedMode
    | .compat | .long64 => .ia32e := by
  unfold dispatch modeOf
  cases s.cr0PE <;> cases s.eferLMA <;> cases s.eflags.VM <;> cases s.cs.L <;> rfl

/-- The path an execution without a task return takes. -/
def pathOf (n : OpSize) (s : State) : Check State :=
  match dispatch s with
  | .realAddress => realAddressMode n s
  | .fromV86 => returnFromVirtual8086 n s
  | .protectedMode => protectedMode n s
  | .ia32e => ia32eMode n s

/-- An execution without a task return: refused outside the preconditions, else the path of the mode. -/
theorem iretExec_eq {n : OpSize} {len : Nat} {s : State} (h : takesTaskReturn s = false) :
    iretExec n len s =
      if s.vmxNonRoot = true then .refused .vmxNonRoot
      else if modeOf s = .v8086 ∧ s.cr4VME = true then .refused .virtual8086Extensions
      else finish s (pathOf n s) := by
  unfold iretExec pathOf
  unfold takesTaskReturn at h
  have hd := dispatch_eq s
  cases hm : modeOf s <;> rw [hm] at hd <;> simp only [hd] at h ⊢ <;> cases s.vmxNonRoot <;>
    cases s.cr4VME <;> simp_all

/-- Every constructor with an operand size executes the skeleton with it; IRETQ in 64-bit mode only. -/
theorem exec_eq {i : Instr} {n : OpSize} (h : i.opSize = some n) (s : State) :
    exec i s = if n = .w64 ∧ modeOf s ≠ .long64 then .refused .iretqOutside64 else iretExec n i.length s := by
  cases i <;> cases h <;>
    simp [exec, execIret, execIret66, execIretd, execIretd66, execIretq, Instr.length, Instr.prefixes]

/-- Within the preconditions an execution without a task return finishes the path of its mode. -/
theorem exec_eq_finish {i : Instr} {n : OpSize} {s : State} (hi : i.opSize = some n)
    (hq : n = .w64 → modeOf s = .long64) (hn : takesTaskReturn s = false) (hv : s.vmxNonRoot = false)
    (hm : modeOf s = .v8086 → s.cr4VME = false) : exec i s = finish s (pathOf n s) := by
  have h1 : ¬ (n = .w64 ∧ modeOf s ≠ .long64) := fun h => h.2 (hq h.1)
  have h2 : ¬ s.vmxNonRoot = true := by rw [hv]; exact Bool.false_ne_true
  have h3 : ¬ (modeOf s = .v8086 ∧ s.cr4VME = true) := fun h => by
    rw [hm h.1] at h
    exact Bool.false_ne_true h.2
  rw [exec_eq hi, if_neg h1, iretExec_eq hn, if_neg h2, if_neg h3]

/-- A next state of an execution without a task return is a path's answer, retired. -/
theorem exec_next {i : Instr} {n : OpSize} {s t : State} (hi : i.opSize = some n)
    (hn : takesTaskReturn s = false) (h : exec i s = .next t) : ∃ u, pathOf n s = .ok u ∧ t = retire u := by
  rw [exec_eq hi, iretExec_eq hn] at h
  split at h
  · cases h
  · split at h
    · cases h
    · split at h
      · cases h
      · exact finish_next.mp h

/-- A fault of an execution without a task return is a path's exception; NMIs are unblocked. -/
theorem exec_fault {i : Instr} {n : OpSize} {s : State} {f : Fault} (hi : i.opSize = some n)
    (hn : takesTaskReturn s = false) (h : exec i s = .fault f) :
    ∃ x, pathOf n s = .error (.exc x) ∧ f = .exception x (unblockNmi s) := by
  rw [exec_eq hi, iretExec_eq hn] at h
  split at h
  · cases h
  · split at h
    · cases h
    · split at h
      · cases h
      · exact finish_fault.mp h

/-- How an execution without a task return can end in a next state, before it retires: one case per ending, each with
the frame it popped and the state it commits. `m` is the memory after the stores of the Commit. -/
theorem pathOf_cases {n : OpSize} {s t : State} (h : pathOf n s = .ok t) : ∃ f, popFrame s n = .ok f ∧
    ((modeOf s = .real ∧ f.ip.toNat ≤ s.cs.limit.toNat
      ∧ t = { s with
        rip := f.ip
        cs := realSegLoad s.cs f.cs
        eflags := writeFlagsReal s.eflags (Eflags.ofImage f.flags) n
        rsp := stackPointerAdvance s (slotOffset s n 3) })
    ∨ (modeOf s = .v8086 ∧ s.eflags.IOPL = 3#2 ∧ f.ip.toNat ≤ 0xFFFF
      ∧ t = { s with
        rip := f.ip
        cs := v86SegLoad f.cs
        eflags := writeFlagsV86 s.eflags (Eflags.ofImage f.flags) n
        rsp := stackPointerAdvance s (slotOffset s n 3) })
    ∨ (modeOf s = .protectedMode ∧ returnsToV86 s f = true ∧ ∃ v m, popV86Items s = .ok v
      ∧ freeToken s (v86Token s) = .ok { s with mem := m } ∧ t = commitV86 { s with mem := m } f v)
    ∨ (dispatch s ≠ .realAddress ∧ dispatch s ≠ .fromV86 ∧ (dispatch s = .protectedMode → returnsToV86 s f = false)
      ∧ ∃ c, returnCSCheck s f.cs = .ok c ∧
      ((s.cpl < selRpl f.cs ∧ ∃ st q sh m, popStack s n = .ok st
        ∧ returnSSCheck s st.ss (selRpl f.cs) c.seg = .ok q
        ∧ shadowOuterChecks s (selRpl f.cs) f.cs c.seg f.ip = .ok sh
        ∧ commitStores s c.mark q.mark sh.token = .ok { s with mem := m }
        ∧ t = commitOuter { s with mem := m } n f st c.seg q.seg sh.ssp)
      ∨ (¬ s.cpl < selRpl f.cs ∧ modeOf s ≠ .long64 ∧ ∃ sh m, shadowSameChecks s f.cs c.seg f.ip = .ok sh
        ∧ commitStores s c.mark none sh.token = .ok { s with mem := m }
        ∧ t = { commitReturn { s with mem := m } n f c.seg with
          rsp := stackPointerAdvance s (slotOffset s n 3)
          ssp := sh.ssp })
      ∨ (¬ s.cpl < selRpl f.cs ∧ modeOf s = .long64 ∧ ∃ st q sh m, popStack s n = .ok st
        ∧ returnSSCheck s st.ss (selRpl f.cs) c.seg = .ok q
        ∧ shadowSameChecks s f.cs c.seg f.ip = .ok sh
        ∧ commitStores s c.mark q.mark sh.token = .ok { s with mem := m }
        ∧ t = { commitReturn { s with mem := m } n f c.seg with
          rsp := loadStackPointer s n st.sp
          ss := q.seg
          ssp := sh.ssp })))) := by
  have hd := dispatch_eq s
  have outer : ∀ {f c}, returnToOuter n s f c = .ok t → ∃ st q sh m, popStack s n = .ok st
      ∧ returnSSCheck s st.ss (selRpl f.cs) c.seg = .ok q
      ∧ shadowOuterChecks s (selRpl f.cs) f.cs c.seg f.ip = .ok sh
      ∧ commitStores s c.mark q.mark sh.token = .ok { s with mem := m }
      ∧ t = commitOuter { s with mem := m } n f st c.seg q.seg sh.ssp := by
    intro f c h
    obtain ⟨st, q, sh, u, h1, h2, -, h4, h5, rfl⟩ := returnToOuter_ok.mp h
    obtain ⟨m, rfl, -⟩ := commitStores_storesOnly h5
    exact ⟨st, q, sh, m, h1, h2, h4, h5, rfl⟩
  have same : ∀ {f c}, returnToSame n s f c = .ok t → ∃ sh m, shadowSameChecks s f.cs c.seg f.ip = .ok sh
      ∧ commitStores s c.mark none sh.token = .ok { s with mem := m }
      ∧ t = { commitReturn { s with mem := m } n f c.seg with
        rsp := stackPointerAdvance s (slotOffset s n 3)
        ssp := sh.ssp } := by
    intro f c h
    obtain ⟨sh, u, -, h4, h5, rfl⟩ := returnToSame_ok.mp h
    obtain ⟨m, rfl, -⟩ := commitStores_storesOnly h5
    exact ⟨sh, m, h4, h5, rfl⟩
  unfold pathOf at h
  split at h
  · rename_i he
    obtain ⟨f, hf, hl, rfl⟩ := realAddressMode_ok.mp h
    refine ⟨f, hf, .inl ⟨?_, hl, rfl⟩⟩
    cases hm : modeOf s <;> simp_all
  · rename_i he
    obtain ⟨hi, f, hf, hl, rfl⟩ := returnFromVirtual8086_ok.mp h
    refine ⟨f, hf, .inr (.inl ⟨?_, hi, hl, rfl⟩)⟩
    cases hm : modeOf s <;> simp_all
  · rename_i he
    have hm : modeOf s = .protectedMode := by cases hm : modeOf s <;> simp_all
    obtain ⟨f, hf, ⟨hv, h⟩ | ⟨hv, c, hc, ⟨hlt, h⟩ | ⟨hlt, h⟩⟩⟩ := protectedMode_ok.mp h
    · obtain ⟨v, u, -, -, h3, -, h5, rfl⟩ := returnToVirtual8086_ok.mp h
      obtain ⟨m, rfl, -⟩ := freeToken_storesOnly h5
      exact ⟨f, hf, .inr (.inr (.inl ⟨hm, hv, v, m, h3, h5, rfl⟩))⟩
    · refine ⟨f, hf, .inr (.inr (.inr ⟨?_, ?_, fun _ => hv, c, hc, .inl ⟨hlt, outer h⟩⟩))⟩ <;> simp [he]
    · refine ⟨f, hf, .inr (.inr (.inr ⟨?_, ?_, fun _ => hv, c, hc, .inr (.inl ⟨hlt, ?_, same h⟩)⟩))⟩ <;>
        simp [he, hm]
  · rename_i he
    obtain ⟨-, f, hf, c, hc, ⟨hlt, h⟩ | ⟨hlt, hm, h⟩ | ⟨hlt, hm, h⟩⟩ := ia32eMode_ok.mp h
    · refine ⟨f, hf, .inr (.inr (.inr ⟨?_, ?_, ?_, c, hc, .inl ⟨hlt, outer h⟩⟩))⟩ <;> simp [he]
    · obtain ⟨st, q, sh, u, h1, h2, -, h4, h5, rfl⟩ := returnToSameSwitch_ok.mp h
      obtain ⟨m, rfl, -⟩ := commitStores_storesOnly h5
      refine ⟨f, hf, .inr (.inr (.inr ⟨?_, ?_, ?_, c, hc, .inr (.inr ⟨hlt, hm, st, q, sh, m, h1, h2, h4, h5, rfl⟩)⟩))⟩
        <;> simp [he]
    · refine ⟨f, hf, .inr (.inr (.inr ⟨?_, ?_, ?_, c, hc, .inr (.inl ⟨hlt, hm, same h⟩)⟩))⟩ <;> simp [he]

/-- `descIsTss` is the condition of a TSS descriptor (42 R164). -/
theorem descIsTss_iff {d : Word} : descIsTss d = true ↔ isTssDescriptor d := by
  unfold descIsTss isTssDescriptor
  simp

/-- A task switch with shadow stacks at the old or the new level loads SSP. -/
theorem switchedSsp_loaded {s : State} {t : TaskImage}
    (h : shadowStackEnabled s s.cpl = true ∨ shadowStackEnabled { s with eflags := t.eflags } t.cpl = true) :
    switchedSsp s t = t.ssp := by
  unfold switchedSsp
  rw [if_pos (by simpa using h)]

/-- Without shadow stacks at either level it keeps SSP (10_state.md R39). -/
theorem switchedSsp_kept {s : State} {t : TaskImage} (h : shadowStackEnabled s s.cpl = false)
    (h' : shadowStackEnabled { s with eflags := t.eflags } t.cpl = false) : switchedSsp s t = s.ssp := by
  unfold switchedSsp
  rw [h, h']
  rfl

/-- The end of a task return whose back link is good and whose switch is given. -/
theorem taskReturn_next {len : Nat} {s u : State} (h : taskReturn len s = .next u) :
    ∃ link t v, checkedLink s = .ok link ∧ lookupTask link (returnAddress s len) s.tasks = some (.switched t)
      ∧ clearBusy (enterTask s t) s.tr.sel = .ok v ∧ ipWithinLimit v.cs (lowPart .w32 v.rip) = true
      ∧ u = retire v := by
  unfold taskReturn at h
  split at h
  · rename_i link hl
    unfold switchTo at h
    split at h
    · cases h
    · cases h
    · rename_i t ht
      split at h
      · rename_i v hv
        unfold endTaskReturn at h
        split at h
        · rename_i hip
          cases h
          exact ⟨link, t, v, hl, ht, hv, hip, rfl⟩
        · cases h
      · cases h
      · cases h
  · cases h
  · cases h

end Sys2Proof.Machine
end

