-- ==== Sys2Proof/Laws/Fetch.lean ====
section
/-! SUPPORT. What a fetch reads: the bytes of the instruction that stands at CS:RIP, however many prefix bytes it has
(30_encoding.md R90). -/

namespace Sys2Proof.Machine

/-- A fetch reads prefix bytes and the byte after them, where they stand at increasing offsets. -/
theorem fetchFrom_eq {s : State} {m : Nat} {ip : Word} {l : List Byte} {b : Byte}
    (hl : ∀ c ∈ l, isPrefixByte (decodeCtx s).mode64 c = true) (hb : isPrefixByte (decodeCtx s).mode64 b = false)
    (hm : l.length < m)
    (h : ∀ k (hk : k < (l ++ [b]).length), fetchByte s (ip + BitVec.ofNat 64 k) = some (l ++ [b])[k]) :
    fetchFrom s m ip = l ++ [b] := by
  induction l generalizing m ip with
  | nil =>
    obtain ⟨m, rfl⟩ : ∃ k, m = k + 1 := ⟨m - 1, by simp at hm; omega⟩
    have h0 : fetchByte s ip = some b := by simpa using h 0 (by simp)
    simp [fetchFrom, h0, hb]
  | cons c l ih =>
    obtain ⟨m, rfl⟩ : ∃ k, m = k + 1 := ⟨m - 1, by simp at hm; omega⟩
    have h0 : fetchByte s ip = some c := by simpa using h 0 (by simp)
    have hr : fetchFrom s m (ip + 1#64) = l ++ [b] := by
      refine ih (fun d hd => hl d (List.mem_cons_of_mem _ hd)) (by simpa using hm) fun k hk => ?_
      have := h (k + 1) (by simpa using hk)
      rw [BitVec.ofNat_add, BitVec.add_comm (BitVec.ofNat 64 k), ← BitVec.add_assoc] at this
      simpa using this
    simp [fetchFrom, h0, hl c List.mem_cons_self, hr]

/-- A REX byte is one. -/
theorem isRexByte_rexByte : ∀ w : BitVec 4, isRexByte (rexByte w) = true := by decide

/-- Every byte before the opcode of a well-formed instruction is a prefix byte of its context. -/
theorem encode_isPrefixByte {c : DecodeCtx} {i : Instr} (h : i.wellFormed c = true) :
    ∀ b ∈ i.prefixes.encode, isPrefixByte c.mode64 b = true := by
  have hr : rexAllowed c i.prefixes = true := by
    cases i <;> simp [Instr.wellFormed, Instr.prefixes, rexAllowed] at h ⊢ <;> simp_all
  intro b hb
  unfold Prefixes.encode at hb
  rcases List.mem_append.mp hb with hb | hb
  · obtain ⟨l, -, rfl⟩ := List.mem_map.mp hb
    cases l <;> simp [isPrefixByte, LegacyPrefix.byte, legacyOfByte]
  · unfold rexAllowed at hr
    cases he : i.prefixes.rex with
    | none => rw [he] at hb; simp at hb
    | some w =>
      rw [he] at hb hr
      have hm : c.mode64 = true := by simpa using hr
      rw [List.mem_singleton.mp hb, isPrefixByte, hm]
      rw [isRexByte_rexByte w]
      simp

/-- A fetch reads exactly the bytes of the well-formed instruction that stands at CS:RIP: a prefix run as long as the
whole offset space would be followed by its own first byte again. -/
theorem fetchBytes_encode {s : State} {i : Instr} (hw : i.wellFormed (decodeCtx s) = true)
    (h : ∀ k (hk : k < (encode i).length), fetchByte s (s.rip + BitVec.ofNat 64 k) = some (encode i)[k]) :
    fetchBytes s = encode i := by
  have hl := encode_isPrefixByte hw
  have hb : isPrefixByte (decodeCtx s).mode64 opcodeByte = false := by
    cases (decodeCtx s).mode64 <;> rfl
  refine fetchFrom_eq hl hb (Nat.lt_of_not_le fun hge => ?_) h
  unfold codeOffsets at hge
  have hlen : (encode i).length = i.prefixes.encode.length + 1 := by simp [encode]
  have h1 := h i.prefixes.encode.length (by omega)
  have h2 := h (i.prefixes.encode.length - 2 ^ 64) (by omega)
  have he : BitVec.ofNat 64 i.prefixes.encode.length = BitVec.ofNat 64 (i.prefixes.encode.length - 2 ^ 64) := by
    apply BitVec.eq_of_toNat_eq
    simp only [BitVec.toNat_ofNat]
    omega
  rw [he, h2] at h1
  have hlt : i.prefixes.encode.length - 2 ^ 64 < i.prefixes.encode.length := by omega
  simp only [encode, List.getElem_append_right (Nat.le_refl _), List.getElem_append_left hlt, Nat.sub_self,
    List.getElem_cons_zero, Option.some.injEq] at h1
  have := hl _ (List.getElem_mem hlt)
  rw [h1, hb] at this
  cases this

end Sys2Proof.Machine
end

