-- ==== Sys2Proof/Laws/PerInstr.lean ====
section
/-! SUPPORT. What holds of every instruction as syntax, one lemma per constructor: its bytes end in the opcode CFH,
and their number is its length (30_encoding.md R90). -/

namespace Sys2Proof.Laws

/-- The bytes of the instruction end in the opcode and are as many as its length says. -/
def EncodingEndsInOpcode.Statement (i : Instr) : Prop :=
  (encode i).getLast? = some opcodeByte ∧ (encode i).length = i.length

/-- The encoding of prefix bytes has their length. -/
theorem prefixes_encode_length (p : Prefixes) : p.encode.length = p.length := by
  obtain ⟨l, r⟩ := p
  cases r <;> simp [Prefixes.encode, Prefixes.length]

/-- The statement rests on the prefix bytes alone. -/
theorem encoding_ends_in_opcode (i : Instr) : EncodingEndsInOpcode.Statement i := by
  refine ⟨by simp [encode], ?_⟩
  simp [encode, Instr.length, prefixes_encode_length]

theorem EncodingEndsInOpcode.iret (p : Prefixes) : EncodingEndsInOpcode.Statement (.iret p) :=
  encoding_ends_in_opcode _

theorem EncodingEndsInOpcode.iret66 (p : Prefixes) : EncodingEndsInOpcode.Statement (.iret66 p) :=
  encoding_ends_in_opcode _

theorem EncodingEndsInOpcode.iretd (p : Prefixes) : EncodingEndsInOpcode.Statement (.iretd p) :=
  encoding_ends_in_opcode _

theorem EncodingEndsInOpcode.iretd66 (p : Prefixes) : EncodingEndsInOpcode.Statement (.iretd66 p) :=
  encoding_ends_in_opcode _

theorem EncodingEndsInOpcode.iretq (p : Prefixes) : EncodingEndsInOpcode.Statement (.iretq p) :=
  encoding_ends_in_opcode _

theorem EncodingEndsInOpcode.lockIret (p : Prefixes) : EncodingEndsInOpcode.Statement (.lockIret p) :=
  encoding_ends_in_opcode _

end Sys2Proof.Laws
end

