-- ==== Sys2Proof/Laws/Stops.lean ====
section
/-! SUPPORT. How an execution stops: which part of a path a failing check belongs to, and that its exception is the fault
of the execution. -/

namespace Sys2Proof.Machine

/-! ### A failing pop -/

/-- A popped selector stops as its pop does. -/
theorem popSel_error {s : State} {n : OpSize} {k : Nat} {e : Stop} (h : popAt s n k = .error e) :
    popSel s n k = .error e := by
  unfold popSel
  rw [h, check_error_bind]

/-- A popped selector is the low half-word of the item. -/
theorem popSel_of_pop {s : State} {n : OpSize} {k : Nat} {v : Word} (h : popAt s n k = .ok v) :
    popSel s n k = .ok (v.setWidth 16) :=
  popSel_ok.mpr ⟨v, h, rfl⟩

/-- The first three pops stop as the first failing one does. -/
theorem popFrame_error {s : State} {n : OpSize} {k : Nat} {e : Stop} (hk : k < 3)
    (hj : ∀ j, j < k → ∃ v, popAt s n j = .ok v) (h : popAt s n k = .error e) : popFrame s n = .error e := by
  unfold popFrame
  match k, hk with
  | 0, _ => rw [h, check_error_bind]
  | 1, _ =>
    obtain ⟨v0, h0⟩ := hj 0 (by decide)
    rw [h0, check_ok_bind, popSel_error h, check_error_bind]
  | 2, _ =>
    obtain ⟨v0, h0⟩ := hj 0 (by decide)
    obtain ⟨v1, h1⟩ := hj 1 (by decide)
    rw [h0, check_ok_bind, popSel_of_pop h1, check_ok_bind, h, check_error_bind]

/-- The two pops of a stack switch stop as the first failing one does. -/
theorem popStack_error {s : State} {n : OpSize} {k : Nat} {e : Stop} (hk3 : 3 ≤ k) (hk : k < 5)
    (hj : ∀ j, j < k → ∃ v, popAt s n j = .ok v) (h : popAt s n k = .error e) : popStack s n = .error e := by
  unfold popStack
  obtain rfl | rfl : k = 3 ∨ k = 4 := by omega
  · rw [h, check_error_bind]
  · obtain ⟨v3, h3⟩ := hj 3 (by decide)
    rw [h3, check_ok_bind, popSel_error h, check_error_bind]

/-- The six further pops of a return to virtual-8086 mode stop as the first failing one does. -/
theorem popV86Items_error {s : State} {k : Nat} {e : Stop} (hk3 : 3 ≤ k) (hk : k < 9)
    (hj : ∀ j, j < k → ∃ v, popAt s .w32 j = .ok v) (h : popAt s .w32 k = .error e) :
    popV86Items s = .error e := by
  have pop : ∀ j, j < k → ∃ v, popSel s .w32 j = .ok v := fun j hjk => by
    obtain ⟨v, hv⟩ := hj j hjk
    exact ⟨_, popSel_of_pop hv⟩
  unfold popV86Items
  obtain rfl | h3 : k = 3 ∨ 3 < k := by omega
  · rw [h, check_error_bind]
  obtain ⟨v3, e3⟩ := hj 3 h3
  rw [e3, check_ok_bind]
  obtain rfl | h4 : k = 4 ∨ 4 < k := by omega
  · rw [popSel_error h, check_error_bind]
  obtain ⟨v4, e4⟩ := pop 4 h4
  rw [e4, check_ok_bind]
  obtain rfl | h5 : k = 5 ∨ 5 < k := by omega
  · rw [popSel_error h, check_error_bind]
  obtain ⟨v5, e5⟩ := pop 5 h5
  rw [e5, check_ok_bind]
  obtain rfl | h6 : k = 6 ∨ 6 < k := by omega
  · rw [popSel_error h, check_error_bind]
  obtain ⟨v6, e6⟩ := pop 6 h6
  rw [e6, check_ok_bind]
  obtain rfl | h7 : k = 7 ∨ 7 < k := by omega
  · rw [popSel_error h, check_error_bind]
  obtain ⟨v7, e7⟩ := pop 7 h7
  obtain rfl : k = 8 := by omega
  rw [e7, check_ok_bind, popSel_error h, check_error_bind]

/-! ### The path of a mode -/

/-- An execution with NT = 0 in protected mode, or in any other mode, is no task return. -/
theorem not_takesTaskReturn {s : State} (h : modeOf s = .protectedMode → s.eflags.NT = false) :
    takesTaskReturn s = false := by
  have hd := dispatch_eq s
  unfold takesTaskReturn
  cases hm : modeOf s <;> rw [hm] at hd <;> simp only [hd]
  · rfl
  · rfl
  · rw [h hm]; rfl
  · rfl
  · rfl

/-- A path that stops with an exception ends the execution in that fault, the state otherwise as before. -/
theorem exec_fault_of {i : Instr} {n : OpSize} {s : State} {x : Exception} (hi : i.opSize = some n)
    (hq : n = .w64 → modeOf s = .long64) (hv : s.vmxNonRoot = false) (hm : modeOf s = .v8086 → s.cr4VME = false)
    (hn : modeOf s = .protectedMode → s.eflags.NT = false) (h : pathOf n s = .error (.exc x)) :
    exec i s = .fault (.exception x { s with nmiBlocked := false }) := by
  rw [exec_eq_finish hi hq (not_takesTaskReturn hn) hv hm, h]
  rfl

/-- A failing pop of the first three stops the path of any mode, once the gate before the pops is passed. -/
theorem pathOf_frame_error {n : OpSize} {s : State} {e : Stop} (hi : modeOf s = .v8086 → s.eflags.IOPL = 3#2)
    (hn : modeOf s = .compat ∨ modeOf s = .long64 → s.eflags.NT = false) (h : popFrame s n = .error e) :
    pathOf n s = .error e := by
  have hd := dispatch_eq s
  unfold pathOf
  cases hm : modeOf s <;> rw [hm] at hd <;> simp only [hd]
  · unfold realAddressMode; rw [h, check_error_bind]
  · unfold returnFromVirtual8086; rw [hi hm, h]; rfl
  · unfold protectedMode; rw [h, check_error_bind]
  · unfold ia32eMode; rw [hn (.inl hm), h]; rfl
  · unfold ia32eMode; rw [hn (.inr hm), h]; rfl

/-- A protected-style return after its three pops: the check of CS, then the return to an outer or to the same level. -/
def protectedReturn (n : OpSize) (s : State) (f : Frame) : Check State := do
  let newCS ← returnCSCheck s f.cs
  if s.cpl < selRpl f.cs then returnToOuter n s f newCS
  else if modeOf s = .long64 then returnToSameSwitch n s f newCS
  else returnToSame n s f newCS

/-- The path of protected, compatibility and 64-bit mode after the three pops, when it does not go to virtual-8086
mode. -/
theorem pathOf_protectedReturn {n : OpSize} {s : State} {f : Frame} (h1 : modeOf s ≠ .real) (h2 : modeOf s ≠ .v8086)
    (hn : s.eflags.NT = false) (hf : popFrame s n = .ok f)
    (hv : modeOf s = .protectedMode → returnsToV86 s f = false) : pathOf n s = protectedReturn n s f := by
  have hd := dispatch_eq s
  unfold pathOf protectedReturn
  cases hm : modeOf s <;> rw [hm] at hd <;> simp only [hd]
  · exact absurd hm h1
  · exact absurd hm h2
  · unfold protectedMode protectedModeReturn
    rw [hf, check_ok_bind, hv hm]
    rfl
  · unfold ia32eMode
    rw [hn, hf, hm]
    rfl
  · unfold ia32eMode
    rw [hn, hf, hm]
    rfl

/-- A failing check of CS stops the return. -/
theorem protectedReturn_cs_error {n : OpSize} {s : State} {f : Frame} {e : Stop}
    (h : returnCSCheck s f.cs = .error e) : protectedReturn n s f = .error e := by
  unfold protectedReturn
  rw [h, check_error_bind]

/-- A return that pops SS pops two items more, checks SS and then the return address; what it does then depends on the
level. -/
theorem protectedReturn_switch {n : OpSize} {s : State} {f : Frame} {newCS : LoadedSeg}
    (hc : returnCSCheck s f.cs = .ok newCS) (hp : s.cpl < selRpl f.cs ∨ modeOf s = .long64) :
    ∃ rest : StackItems → LoadedSeg → Check State, protectedReturn n s f = (do
      let st ← popStack s n
      let newSS ← returnSSCheck s st.ss (selRpl f.cs) newCS.seg
      require (ipAccepted s newCS.seg f.ip) gp0
      rest st newSS) := by
  unfold protectedReturn
  rw [hc, check_ok_bind]
  by_cases hlt : s.cpl < selRpl f.cs
  · rw [if_pos hlt]
    exact ⟨_, rfl⟩
  · rw [if_neg hlt, if_pos (hp.resolve_left hlt)]
    exact ⟨_, rfl⟩

/-- A return address that is not accepted stops the return, once SS has passed its check where it is popped. -/
theorem protectedReturn_ip_error {n : OpSize} {s : State} {f : Frame} {newCS : LoadedSeg}
    (hc : returnCSCheck s f.cs = .ok newCS)
    (hp : s.cpl < selRpl f.cs ∨ modeOf s = .long64 → ∃ st newSS, popStack s n = .ok st
      ∧ returnSSCheck s st.ss (selRpl f.cs) newCS.seg = .ok newSS)
    (h : ipAccepted s newCS.seg f.ip = false) : protectedReturn n s f = .error (.exc gp0) := by
  by_cases hs : s.cpl < selRpl f.cs ∨ modeOf s = .long64
  · obtain ⟨rest, hr⟩ := protectedReturn_switch (n := n) hc hs
    obtain ⟨st, newSS, h1, h2⟩ := hp hs
    rw [hr, h1, check_ok_bind, h2, check_ok_bind, h]
    rfl
  · unfold protectedReturn
    rw [hc, check_ok_bind, if_neg (fun hl => hs (.inl hl)), if_neg (fun hl => hs (.inr hl))]
    unfold returnToSame
    rw [h]
    rfl

/-- After the return address a return makes the shadow-stack checks and the stores, and then only commits registers;
`ssMark` is the accessed bit that SS has to write, none where SS is not popped. -/
theorem protectedReturn_rest {n : OpSize} {s : State} {f : Frame} {newCS : LoadedSeg} {ssMark : Option Word}
    (hc : returnCSCheck s f.cs = .ok newCS)
    (hp : s.cpl < selRpl f.cs ∨ modeOf s = .long64 → ∃ st newSS, popStack s n = .ok st
      ∧ returnSSCheck s st.ss (selRpl f.cs) newCS.seg = .ok newSS ∧ newSS.mark = ssMark)
    (hn : ¬ (s.cpl < selRpl f.cs ∨ modeOf s = .long64) → ssMark = none) (h : ipAccepted s newCS.seg f.ip = true) :
    ∃ commit : ShadowResult → State → State, protectedReturn n s f = (do
      let sh ← shadowChecks s f.cs newCS.seg f.ip
      let t ← commitStores s newCS.mark ssMark sh.token
      .ok (commit sh t)) := by
  unfold protectedReturn shadowChecks
  rw [hc, check_ok_bind]
  by_cases hlt : s.cpl < selRpl f.cs
  · obtain ⟨st, newSS, h1, h2, rfl⟩ := hp (.inl hlt)
    rw [if_pos hlt, if_pos hlt]
    unfold returnToOuter
    rw [h1, check_ok_bind, h2, check_ok_bind, h, require_true, check_ok_bind]
    exact ⟨fun sh t => commitOuter t n f st newCS.seg newSS.seg sh.ssp, rfl⟩
  · rw [if_neg hlt, if_neg hlt]
    by_cases hm : modeOf s = .long64
    · obtain ⟨st, newSS, h1, h2, rfl⟩ := hp (.inr hm)
      rw [if_pos hm]
      unfold returnToSameSwitch
      rw [h1, check_ok_bind, h2, check_ok_bind, h, require_true, check_ok_bind]
      exact ⟨fun sh t => { commitReturn t n f newCS.seg with
        rsp := loadStackPointer s n st.sp
        ss := newSS.seg
        ssp := sh.ssp }, rfl⟩
    · obtain rfl := hn (fun e => e.elim hlt hm)
      rw [if_neg hm]
      unfold returnToSame
      rw [h, require_true, check_ok_bind]
      exact ⟨fun sh t => { commitReturn t n f newCS.seg with
        rsp := stackPointerAdvance s (slotOffset s n 3)
        ssp := sh.ssp }, rfl⟩

/-- The exception of the shadow-stack checks stops the return. -/
theorem protectedReturn_shadow_error {n : OpSize} {s : State} {f : Frame} {newCS : LoadedSeg} {e : Stop}
    (hc : returnCSCheck s f.cs = .ok newCS)
    (hp : s.cpl < selRpl f.cs ∨ modeOf s = .long64 → ∃ st newSS, popStack s n = .ok st
      ∧ returnSSCheck s st.ss (selRpl f.cs) newCS.seg = .ok newSS)
    (h : ipAccepted s newCS.seg f.ip = true) (he : shadowChecks s f.cs newCS.seg f.ip = .error e) :
    protectedReturn n s f = .error e := by
  by_cases hs : s.cpl < selRpl f.cs ∨ modeOf s = .long64
  · obtain ⟨st, newSS, h1, h2⟩ := hp hs
    obtain ⟨commit, hr⟩ := protectedReturn_rest hc (fun _ => ⟨st, newSS, h1, h2, rfl⟩) (fun hn => absurd hs hn) h
    rw [hr, he, check_error_bind]
  · obtain ⟨commit, hr⟩ := protectedReturn_rest (ssMark := none) hc (fun hn => absurd hn hs) (fun _ => rfl) h
    rw [hr, he, check_error_bind]

end Sys2Proof.Machine
end

