-- ==== Sys2Proof/Tests/Slice0.lean ====
section
/-! SUPPORT. Tests: words written out from 30_encoding.md, single steps from 95_test_vectors.md (V1 to V28), and for
every obligation with hypotheses a state and operands that meet them. -/

namespace Sys2Proof.Tests

open Sys2Proof.Machine

/-! ### Helpers -/

/-- A check answers the value. -/
def okIs {α : Type} [DecidableEq α] (c : Except Stop α) (v : α) : Bool :=
  match c with
  | .ok w => decide (w = v)
  | .error _ => false

/-- A check answers. -/
def answers {α : Type} (c : Except Stop α) : Bool :=
  match c with
  | .ok _ => true
  | .error _ => false

/-- The outcome is a next state that satisfies the test. -/
def nextIs (o : Out) (f : State → Bool) : Bool :=
  match o with
  | .next t => f t
  | _ => false

/-- The outcome is the exception, leaving the state with NMIs unblocked. -/
def faultsFrom (o : Out) (x : Exception) (s : State) : Bool :=
  match o with
  | .fault (.exception y left) => decide (y = x) && decide (left = { s with nmiBlocked := false })
  | _ => false

theorem ok_of {α : Type} [DecidableEq α] {c : Except Stop α} {v : α} (h : okIs c v = true) : c = .ok v := by
  cases c with
  | ok w => exact congrArg _ (of_decide_eq_true h)
  | error e => cases h

/-- A check stops for the reason. -/
def stopIs {α : Type} (c : Except Stop α) (e : Stop) : Bool :=
  match c with
  | .ok _ => false
  | .error d => decide (d = e)

theorem stop_of {α : Type} {c : Except Stop α} {e : Stop} (h : stopIs c e = true) : c = .error e := by
  cases c with
  | ok w => cases h
  | error d => exact congrArg _ (of_decide_eq_true h)

theorem answers_of {α : Type} {c : Except Stop α} (h : answers c = true) : ∃ v, c = .ok v := by
  cases c with
  | ok w => exact ⟨w, rfl⟩
  | error e => cases h

/-- The first pops answer. -/
def popsAnswer (s : State) (n : OpSize) (k : Nat) : Bool :=
  (List.range k).all fun j => answers (popAt s n j)

theorem pops_of {s : State} {n : OpSize} {k : Nat} (h : popsAnswer s n k = true) :
    ∀ j, j < k → ∃ v, popAt s n j = .ok v :=
  fun j hj => answers_of (List.all_eq_true.mp h j (List.mem_range.mpr hj))

theorem next_of {o : Out} {f : State → Bool} (h : nextIs o f = true) : ∃ t, o = .next t ∧ f t = true := by
  cases o with
  | next t => exact ⟨t, rfl, h⟩
  | fault _ => cases h
  | refused _ => cases h

theorem fault_of {o : Out} {x : Exception} {s : State} (h : faultsFrom o x s = true) :
    ∃ left, o = .fault (.exception x left) := by
  cases o with
  | next t => cases h
  | refused _ => cases h
  | fault r =>
    obtain ⟨y, left⟩ := r
    simp only [faultsFrom, Bool.and_eq_true, decide_eq_true_eq] at h
    exact ⟨left, by rw [h.1]⟩

/-- The outcome is the exception, whatever it leaves. -/
def raises (o : Out) (x : Exception) : Bool :=
  match o with
  | .fault (.exception y _) => decide (y = x)
  | _ => false

theorem late_of {o : Out} {x : Exception} (h : raises o x = true) : ∃ left, o = .fault (.exception x left) := by
  cases o with
  | next t => cases h
  | refused _ => cases h
  | fault r =>
    obtain ⟨y, left⟩ := r
    exact ⟨left, by rw [of_decide_eq_true h]⟩

/-- Bytes at increasing addresses, zeros not listed. -/
def bytesAt : Nat → List Nat → Memory
  | _, [] => []
  | a, b :: bs => if b = 0 then bytesAt (a + 1) bs else (a, BitVec.ofNat 8 b) :: bytesAt (a + 1) bs

/-- Values of `n` bytes each at increasing addresses, little-endian. -/
def valuesAt (n a : Nat) (vs : List Nat) : Memory :=
  bytesAt a (vs.flatMap fun v => (List.range n).map fun i => v / 256 ^ i % 256)

/-- The GDT of 95_test_vectors.md (selectors 08H to 48H), a call-gate-like system descriptor at 50H and a conforming
code segment of DPL 3 at 58H. -/
def gdt : List Nat :=
  [0, 0x00CF9B000000FFFF, 0x00CF93000000FFFF, 0x00CFFB000000FFFF, 0x00CFF3000000FFFF, 0x00CFF3000000FFFF,
    0x00AFFB000000FFFF, 0x00AF9B000000FFFF, 0x00EF9B000000FFFF, 0x00CF1B000000FFFF, 0x00008B0000000067,
    0x00CFFF000000FFFF]

/-- The descriptor a selector selects in that GDT. -/
def desc (sel : Nat) : Word := BitVec.ofNat 64 (gdt.getD (sel / 8) 0)

/-- The segment register it loads. -/
def seg (sel : Nat) : SegReg := segFromDescriptor (BitVec.ofNat 16 sel) (desc sel)

def noPrefix : Prefixes := ⟨[], none⟩

/-- V1: real-address mode, `IRET` at F000H:0100H, stack at 0FFAH. -/
def real : State :=
  { State.reset with
    nmiBlocked := true
    rip := 0x100#64
    cs := SegReg.atReset 0xF000#16 0xF0000#64
    rsp := StackReg.ofWord 0x0FFA#64
    mem := bytesAt 0xFFA [0x34, 0x12, 0x00, 0x20, 0x02, 0x02] ++ bytesAt 0xF0100 [0xCF] }

/-- V2: real-address mode, a 32-bit frame with an image of ones at 0FF4H. -/
def real32 : State :=
  { real with
    rsp := StackReg.ofWord 0xFF4#64
    mem := bytesAt 0xFF4 [0x78, 0x56, 0, 0, 0, 0x10, 0xCD, 0xAB, 0xFF, 0xFF, 0xFF, 0xFF] }

/-- V4: virtual-8086 mode with IOPL 3. -/
def v86 : State :=
  { State.reset with
    nmiBlocked := true
    cr0PE := true
    eflags := { Eflags.zero with VM := true, IOPL := 3#2 }
    cpl := 3#2
    ss := v86SegLoad 0x3000#16
    cs := v86SegLoad 0x1000#16
    rsp := StackReg.ofWord 0xFFF0#64
    mem := bytesAt 0x3FFF0 [0, 1, 0, 0x50, 0x46, 0x0A] }

/-- V6 with the instruction pointer at its bound FFFFH. -/
def v86wide : State :=
  { v86 with
    rsp := StackReg.ofWord 0xFFE0#64
    mem := bytesAt 0x3FFE0 [0xFF, 0xFF, 0, 0, 0, 0x60, 0, 0, 2, 2, 0x2D, 0] }

/-- Protected mode at a level, flat segments, the GDT at 10000H. -/
def prot (cpl : BitVec 2) (esp : Word) (m : Memory) : State :=
  { State.reset with
    nmiBlocked := true
    cr0PE := true
    cpl := cpl
    cs := seg (if cpl = 0#2 then 8 else 0x1B)
    ss := seg (if cpl = 0#2 then 0x10 else 0x23)
    rsp := StackReg.ofWord esp
    gdtr := ⟨0x10000#64, 0x5F#16⟩
    mem := m ++ valuesAt 8 0x10000 gdt }

/-- V8: ring 0 to ring 0. -/
def ring0 : State := prot 0#2 0x1000#64 (valuesAt 4 0x1000 [0x401000, 8, 0x202])

/-- V10(m): ring 0 to ring 0 with a code segment of limit FFFH and the return address 1000H. -/
def tight : State :=
  { ring0 with
    mem := valuesAt 4 0x1000 [0x1000, 8, 0x202] ++ valuesAt 8 0x10000 (gdt.set 1 0x00409B0000000FFF) }

/-- V10: ring 0 to a code segment that is not present. -/
def badCs : State := prot 0#2 0x1000#64 (valuesAt 4 0x1000 [0x401000, 0x48, 0x202])

/-- V10: ring 0 to ring 3 with a stack segment of the wrong DPL. -/
def badSs : State := prot 0#2 0x2000#64 (valuesAt 4 0x2000 [0x401000, 0x1B, 0x202, 0x12FFF0, 0x13])

/-- V7: ring 3 to ring 3, 16-bit. -/
def ring3 : State :=
  { prot 3#2 0x8000#64 (bytesAt 0x8000 [0x21, 0x43, 0x1B, 0, 1, 0x30]) with
    eflags := { Eflags.zero with IF := true } }

/-- V9: ring 0 to ring 3. -/
def outer : State :=
  { prot 0#2 0x2000#64 (valuesAt 4 0x2000 [0x401000, 0x1B, 0x3202, 0x12FFF0, 0x23]) with
    ds := seg 0x10
    es := seg 0x23 }

/-- V12: ring 0 to virtual-8086 mode. -/
def toV86 : State :=
  prot 0#2 0x3000#64 (valuesAt 4 0x3000 [0x100, 0x1000, 0x23202, 0xFFFE, 0x2000, 0x3000, 0x4000, 0x5000, 0x6000])

/-- V12(d): the same with a supervisor shadow stack and its token at 5000H. -/
def toV86Shadow : State :=
  { toV86 with
    cr4CET := true
    sCet := 1#64
    ssp := 0x5000#64
    mem := (toV86.mem.write 0x5000 1#8).write 0x5001 0x50#8 }

/-- V14: a nested task with a back link. -/
def nested (link : Nat) : State :=
  { prot 0#2 0x1000#64 (valuesAt 2 0x500 [link]) with
    eflags := { Eflags.zero with NT := true }
    tr := ⟨0x48#16, 0x500#64, 0x67#32⟩ }

/-- An incoming task that differs from reset in its code segment and EIP. -/
def incoming (ip : Word) : TaskImage :=
  { rsp := ⟨0#32, 0x9000#32⟩
    rip := ip
    eflags := Eflags.zero
    cs := { seg 8 with limit := 0xFFF#32 }
    ss := seg 0x10
    ds := seg 0x10
    es := seg 0x10
    fs := seg 0x10
    gs := seg 0x10
    cpl := 0#2
    ldtr := ⟨0#16, false, 0#64, 0#32⟩
    tr := ⟨0x50#16, 0x600#64, 0x67#32⟩
    cr3 := 0x7000#64
    ssp := 0#64
    translation := []
    stores := [(0x10000#64 + 0x4D#64, 0x8B#8)] }

/-- The nested task with `SwitchTasks` given for its back link. -/
def nestedWith (ip : Word) : State :=
  { nested 0x50 with tasks := [⟨0x50#16, 1#64, .switched (incoming ip)⟩], rip := 0#64 }

/-- 64-bit mode at level 0, stack at 200000H, items of `n` bytes. -/
def long (n : Nat) (items : List Nat) : State :=
  { State.reset with
    nmiBlocked := true
    cr0PE := true
    eferLMA := true
    cs := seg 0x38
    ss := seg 0x10
    rsp := StackReg.ofWord 0x200000#64
    gdtr := ⟨0x10000#64, 0x5F#16⟩
    mem := valuesAt 8 0x10000 gdt ++ valuesAt n 0x200000 items }

/-- V17: IRETQ to level 3. -/
def longOuter : State := long 8 [0x401000, 0x33, 0x202, 0x00007FFFFFFFE000, 0x2B]

/-- V19: IRETQ to the same level with a NULL SS. -/
def longSame : State := long 8 [0xFFFFFFFF80001000, 0x38, 2, 0xFFFF800000020000, 0]

/-- V18: a return address that is not canonical. -/
def longBad : State := long 8 [0x800000000000, 0x33, 0x202, 0x00007FFFFFFFE000, 0x2B]

/-- CET on, a supervisor shadow stack at `ssp` with the given quadwords from there. -/
def shadowed (s : State) (ssp : Nat) (frame : List Nat) : State :=
  { s with
    cr4CET := true
    sCet := 1#64
    ssp := BitVec.ofNat 64 ssp
    mem := valuesAt 8 ssp frame ++ s.mem }

/-- V25: the same-level return with its shadow-stack frame and token. -/
def longSameShadow : State := shadowed longSame 0x1000 [0x2000, 0xFFFFFFFF80001000, 0x38, 0x1019]

/-- A page fault with code 3 of one kind of access to the linear addresses `first` to `last`. -/
def faulting (s : State) (acc : Access) (first last : Nat) : State :=
  { s with translation := [⟨acc, BitVec.ofNat 64 first, BitVec.ofNat 64 last, .pageFault 3#32⟩] }

/-- V27: the outer return with the token at SSP. -/
def longOuterShadow : State :=
  { shadowed longOuter 0x1000 [0x1001] with uCet := 1#64, pl3Ssp := 0x7FFFF0000FF8#64 }

/-- A GDT with a code and a data segment of DPL 1 at 18H and 20H. -/
def gdt1 : List Nat := (gdt.set 3 0x00CFBB000000FFFF).set 4 0x00CFB3000000FFFF

/-- Ring 0 to ring 1 with a supervisor shadow-stack frame at 1800H. -/
def toRing1 (frame : List Nat) : State :=
  { shadowed ring0 0x1800 frame with
    rsp := StackReg.ofWord 0x2000#64
    mem := valuesAt 8 0x1800 frame ++ valuesAt 4 0x2000 [0x401000, 0x19, 0x3202, 0x12FFF0, 0x21]
      ++ valuesAt 8 0x10000 gdt1 }

/-- `outer` with the accessed bits of its two descriptors clear. -/
def unmarked : State :=
  { outer with
    mem := valuesAt 4 0x2000 [0x401000, 0x1B, 0x3202, 0x12FFF0, 0x23]
      ++ valuesAt 8 0x10000 ((gdt.set 3 0x00CFFA000000FFFF).set 4 0x00CFF2000000FFFF) }

/-! ### WellFormed: an ill-formed term for each check -/

theorem test_wf_iret_default_32 : (Instr.iret noPrefix).wellFormed ⟨false, true⟩ = false := by decide
theorem test_wf_iret_lock : (Instr.iret ⟨[.lock], none⟩).wellFormed ⟨false, false⟩ = false := by decide
theorem test_wf_iret66_without_66 : (Instr.iret66 noPrefix).wellFormed ⟨false, true⟩ = false := by decide
theorem test_wf_iretd_with_66 : (Instr.iretd ⟨[.opSize], none⟩).wellFormed ⟨false, true⟩ = false := by decide
theorem test_wf_iretd_rex_outside_64 : (Instr.iretd ⟨[], some 0#4⟩).wellFormed ⟨false, true⟩ = false := by decide
theorem test_wf_iretd_rexw : (Instr.iretd ⟨[], some 8#4⟩).wellFormed ⟨true, false⟩ = false := by decide
theorem test_wf_iretd66_default_32 :
    (Instr.iretd66 ⟨[.opSize], none⟩).wellFormed ⟨true, false⟩ = false := by decide
theorem test_wf_iretq_outside_64 : (Instr.iretq ⟨[], some 8#4⟩).wellFormed ⟨false, true⟩ = false := by decide
theorem test_wf_iretq_without_w : (Instr.iretq ⟨[], some 7#4⟩).wellFormed ⟨true, false⟩ = false := by decide
theorem test_wf_lock_missing : (Instr.lockIret ⟨[.opSize], none⟩).wellFormed ⟨false, false⟩ = false := by decide

/-! ### Decode: words written out from 30_encoding.md (95_test_vectors.md E1 to E16) -/

theorem test_decode_iret : decode ⟨false, false⟩ [0b11001111#8] = .ok (.iret noPrefix, []) := rfl
theorem test_decode_iret66 :
    decode ⟨false, true⟩ [0b01100110#8, 0b11001111#8] = .ok (.iret66 ⟨[.opSize], none⟩, []) := rfl
theorem test_decode_iretd : decode ⟨true, true⟩ [0b11001111#8, 1#8] = .ok (.iretd noPrefix, [1#8]) := rfl
theorem test_decode_iretd66 :
    decode ⟨false, false⟩ [0b01100110#8, 0b11001111#8] = .ok (.iretd66 ⟨[.opSize], none⟩, []) := rfl
theorem test_decode_iretq :
    decode ⟨true, false⟩ [0b01001111#8, 0b11001111#8] = .ok (.iretq ⟨[], some 15#4⟩, []) := rfl
theorem test_decode_lock :
    decode ⟨true, false⟩ [0xF0#8, 0x48#8, 0xCF#8] = .ok (.lockIret ⟨[.lock], some 8#4⟩, []) := rfl
theorem test_decode_rex_before_66 :
    decode ⟨true, false⟩ [0x48#8, 0x66#8, 0xCF#8] = .error (.misplacedRex 0x48#8) := rfl
theorem test_decode_end : decode ⟨false, false⟩ [0x66#8] = .error .noOpcode := rfl
theorem test_table_word_iretq : decodeTableWord 16 0x48CF = some (.iretq ⟨[], some 8#4⟩) := by decide
theorem test_table_word_lock : decodeTableWord 8 0xF0 = some (.lockIret ⟨[.lock], none⟩) := by decide

/-! ### Steps, two for each constructor at most -/

set_option maxRecDepth 100000

/-- V1. -/
theorem test_iret_real : nextIs (step real) (fun t => t.rip == 0x1234 && t.cs.sel == 0x2000 && t.cs.base == 0x20000
    && t.eflags == { Eflags.zero with IF := true } && t.rsp.word == 0x1000 && !t.nmiBlocked) = true := by decide

/-- V15: the 16-bit stack wraps at 64 KBytes. -/
theorem test_iret_stack_wraps : nextIs (exec (.iret noPrefix)
    { real with
      rsp := StackReg.ofWord 0xABCDFFFE#64, mem := bytesAt 0 [0, 0x20, 2, 2] ++ bytesAt 0xFFFE [0x34, 0x12] })
    (fun t => t.rip == 0x1234 && t.cs.sel == 0x2000 && t.rsp.word == 0xABCD0004) = true := by decide

/-- V7: IF and IOPL are kept at level 3. -/
theorem test_iret66_ring3 : nextIs (exec (.iret66 noPrefix) ring3) (fun t => t.rip == 0x4321 && t.cs == seg 0x1B
    && t.eflags == { Eflags.zero with IF := true, CF := true }) = true := by decide

/-- V21: operand size 16 in 64-bit mode pops five words. -/
theorem test_iret66_long : nextIs (exec (.iret66 noPrefix) (long 2 [0x1000, 0x33, 0x202, 0xE000, 0x2B]))
    (fun t => t.rip == 0x1000 && t.rsp.word == 0xE000 && t.ss == seg 0x2B && t.cpl == 3) = true := by decide

/-- V9: the outer return nullifies DS and keeps ES. -/
theorem test_iretd_outer : nextIs (exec (.iretd noPrefix) outer) (fun t => t.rip == 0x401000 && t.cs == seg 0x1B
    && t.cpl == 3 && t.ss == seg 0x23 && t.rsp.lo == 0x12FFF0 && t.es == seg 0x23 && t.ds.sel == 0 && !t.ds.valid)
    = true := by decide

/-- V13: the VM bit of the image is ignored at level 3. -/
theorem test_iretd_vm_ignored : nextIs (exec (.iretd noPrefix)
    { ring3 with mem := valuesAt 4 0x8000 [0x401000, 0x1B, 0x20202] ++ valuesAt 8 0x10000 gdt })
    (fun t => t.rip == 0x401000 && !t.eflags.VM && t.eflags.IF) = true := by decide

/-- V2: VM, VIF and VIP of the image are ignored in real-address mode. -/
theorem test_iretd66_real : nextIs (exec (.iretd66 noPrefix) real32) (fun t => t.rip == 0x5678
    && t.cs.sel == 0x1000 && t.eflags.IOPL == 3 && t.eflags.ID && !t.eflags.VM && !t.eflags.VIF && t.rsp.word == 0x1000)
    = true := by decide

/-- V12: the return to virtual-8086 mode. -/
theorem test_iretd66_to_v86 : nextIs (exec (.iretd66 noPrefix) toV86) (fun t => t.cs == v86SegLoad 0x1000
    && t.ss == v86SegLoad 0x2000 && t.es == v86SegLoad 0x3000 && t.ds == v86SegLoad 0x4000
    && t.fs == v86SegLoad 0x5000 && t.gs == v86SegLoad 0x6000 && t.rsp.lo == 0xFFFE && t.eflags.VM && t.cpl == 3)
    = true := by decide

/-- V18: a return address that is not canonical faults. -/
theorem test_iretq_not_canonical : faultsFrom (exec (.iretq noPrefix) longBad) gp0 longBad = true := by decide

/-- V25: the frame is popped, SSP is restored and the token above the frame is freed. -/
theorem test_iretq_shadow : nextIs (exec (.iretq noPrefix) longSameShadow) (fun t => t.rip == 0xFFFFFFFF80001000
    && t.ssp == 0x2000 && t.mem.read 0x1018 == 0x18 && t.mem.read 0x1019 == 0x10 && t.ss.sel == 0 && !t.ss.valid)
    = true := by decide

/-- R96: LOCK faults before the stack is read, NMIs staying as they are (NMI_UNBLOCK_ON_UD = 0). -/
theorem test_lock_ud : (match exec (.lockIret ⟨[.lock], none⟩) { real with ss.limit := 0#32 } with
    | .fault (.exception x left) => x == .ud && left == { real with ss.limit := 0#32 }
    | _ => false) = true := by decide

/-! ### Witnesses: the hypotheses of the obligations are met -/

theorem witness_DecodeInvertsEncode :
    (Instr.iret noPrefix).wellFormed ⟨false, false⟩ = true
    ∧ (Instr.iret66 ⟨[.opSize], some 7#4⟩).wellFormed ⟨true, false⟩ = true
    ∧ (Instr.iretd noPrefix).wellFormed ⟨false, true⟩ = true
    ∧ (Instr.iretd66 ⟨[.opSize, .opSize], none⟩).wellFormed ⟨false, false⟩ = true
    ∧ (Instr.iretq ⟨[.opSize], some 8#4⟩).wellFormed ⟨true, false⟩ = true
    ∧ (Instr.lockIret ⟨[.opSize, .lock], some 0#4⟩).wellFormed ⟨true, true⟩ = true := by decide

theorem witness_DecodeAcceptsOnlyEncodings :
    decode ⟨true, false⟩ [0x66#8, 0x48#8, 0xCF#8, 0x90#8] = .ok (.iretq ⟨[.opSize], some 8#4⟩, [0x90#8]) := rfl

theorem witness_IretqDecodesOnlyIn64BitMode : (DecodeCtx.mk false true).mode64 = false := rfl

theorem witness_OperandSizeFollowsTheModeTable :
    (DecodeCtx.mk true false).mode64 = true ∧ Prefixes.rexW ⟨[], some 8#4⟩ = true
    ∧ Prefixes.rexW ⟨[.opSize], some 7#4⟩ = false ∧ (DecodeCtx.mk false true).mode64 = false
    ∧ (DecodeCtx.mk false true).csDB = true ∧ (DecodeCtx.mk false false).csDB = false := by decide

/-- A decoded word; an instruction of twenty prefix bytes (30_encoding.md R90: "zero or more"); the last offset inside the
limit of CS, at its base, the first one beyond it, and one whose page faults; the first canonical offset of the upper half in
64-bit mode, with a base of CS that does not count, and the one before it; and a state of each mode. -/
theorem witness_StepRunsTheDecodedInstruction :
    let s := { real with mem := bytesAt 0xF0100 (List.replicate 20 0x66 ++ [0xCF]) }
    let i := Instr.iretd66 ⟨List.replicate 20 .opSize, none⟩
    decode (decodeCtx real) (fetchBytes real) = .ok (.iret noPrefix, [])
    ∧ i.wellFormed (decodeCtx s) = true
    ∧ (∀ k (h : k < (encode i).length), fetchByte s (s.rip + BitVec.ofNat 64 k) = some (encode i)[k])
    ∧ (let u := { real with cs.limit := 0x100#32 }
      (0x100#64).toNat ≤ u.cs.limit.toNat ∧ (u.cs.base.toNat + (0x100#64).toNat) % 2 ^ 32 = 0xF0100
      ∧ loadByte u (.fetch u.cpl) 0xF0100#64 = .ok 0xCF#8 ∧ ¬ (0x101#64).toNat ≤ u.cs.limit.toNat)
    ∧ loadByte (faulting ring0 (.fetch 0#2) 0x100 0x100) (.fetch 0#2) 0x100#64 = .error (.exc (.pf 3#32 0x100#64))
    ∧ (let u := { longSame with cs.base := 0x1000#64 }
      modeOf u = .long64 ∧ canonical u 0xFFFF800000000000#64 = true ∧ ¬ canonical u 0xFFFF7FFFFFFFFFFF#64 = true
      ∧ loadByte u (.fetch u.cpl) 0xFFFF800000000000#64 = .ok 0#8)
    ∧ modeOf real = .real ∧ modeOf v86 = .v8086 ∧ modeOf ring0 = .protectedMode
    ∧ modeOf { ring0 with eferLMA := true } = .compat := by
  refine ⟨?_, by decide, by decide, ⟨by decide, by decide, ok_of (by decide), by decide⟩, stop_of (by decide),
    ⟨by decide, by decide, by decide, ok_of (by decide)⟩, rfl, rfl, rfl, rfl⟩
  have h : fetchBytes real = [0xCF#8] := by decide
  rw [h]
  rfl

theorem witness_StepRefusesBytesOutOfScope :
    decode (decodeCtx State.reset) (fetchBytes State.reset) = .error (.otherOpcode 0#8) := by
  have h : fetchBytes State.reset = [0#8] := by decide
  rw [h]
  rfl

theorem witness_LockRaisesInvalidOpcode :
    0xF0#8 ∈ (Prefixes.mk [.opSize, .lock] (some 8#4)).legacy.map LegacyPrefix.byte
    ∧ rexAllowed ⟨true, false⟩ ⟨[.opSize, .lock], some 8#4⟩ = true ∧ State.reset.vmxNonRoot = false := by decide

/-- At the bound: the limit of CS is the return address. -/
theorem witness_RealModeReturn16Completes :
    let s := { real with cs.limit := 0x1234#32 }
    (Instr.iret noPrefix).opSize = some .w16 ∧ s.vmxNonRoot = false ∧ s.cr0PE = false
    ∧ popAt s .w16 0 = .ok 0x1234#64 ∧ popAt s .w16 1 = .ok 0x2000#64 ∧ popAt s .w16 2 = .ok 0x202#64
    ∧ (0x1234#64).toNat ≤ s.cs.limit.toNat :=
  ⟨rfl, rfl, rfl, ok_of (by decide), ok_of (by decide), ok_of (by decide), by decide⟩

theorem witness_RealModeReturn32Completes :
    (Instr.iretd66 noPrefix).opSize = some .w32 ∧ real32.vmxNonRoot = false ∧ real32.cr0PE = false
    ∧ popAt real32 .w32 0 = .ok 0x5678#64 ∧ popAt real32 .w32 1 = .ok 0xABCD1000#64
    ∧ popAt real32 .w32 2 = .ok 0xFFFFFFFF#64 ∧ (0x5678#64).toNat ≤ real32.cs.limit.toNat :=
  ⟨rfl, rfl, rfl, ok_of (by decide), ok_of (by decide), ok_of (by decide), by decide⟩

/-- The first pop and the third past the limit; and the return address one past the limit. -/
theorem witness_RealModeFaultsCarryNoErrorCode :
    let s := { real with cs.limit := 0x1233#32 }
    let u := { real with rsp := StackReg.ofWord 0xFFFF#64 }
    let w := { real with rsp := StackReg.ofWord 0xFFFB#64 }
    (Instr.iret noPrefix).opSize = some .w16 ∧ OpSize.w16 ≠ .w64
    ∧ u.vmxNonRoot = false ∧ u.cr0PE = false ∧ stackInBounds u (slotOffset u .w16 0) 2 = false
    ∧ w.vmxNonRoot = false ∧ w.cr0PE = false ∧ stackInBounds w (slotOffset w .w16 2) 2 = false
    ∧ stackInBounds w (slotOffset w .w16 0) 2 = true ∧ stackInBounds w (slotOffset w .w16 1) 2 = true
    ∧ s.vmxNonRoot = false ∧ s.cr0PE = false ∧ popAt s .w16 0 = .ok 0x1234#64 ∧ popAt s .w16 1 = .ok 0x2000#64
    ∧ popAt s .w16 2 = .ok 0x202#64 ∧ s.cs.limit.toNat < (0x1234#64).toNat :=
  ⟨rfl, by decide, rfl, rfl, by decide, rfl, rfl, by decide, by decide, by decide, rfl, rfl, ok_of (by decide),
    ok_of (by decide), ok_of (by decide), by decide⟩

theorem witness_Virtual8086Return16Completes :
    (Instr.iret noPrefix).opSize = some .w16 ∧ v86.vmxNonRoot = false ∧ modeOf v86 = .v8086 ∧ v86.cr4VME = false
    ∧ v86.eflags.IOPL = 3#2 ∧ popAt v86 .w16 0 = .ok 0x100#64 ∧ popAt v86 .w16 1 = .ok 0x5000#64
    ∧ popAt v86 .w16 2 = .ok 0x0A46#64 :=
  ⟨rfl, rfl, rfl, rfl, rfl, ok_of (by decide), ok_of (by decide), ok_of (by decide)⟩

theorem witness_Virtual8086Return32Completes :
    (Instr.iretd66 noPrefix).opSize = some .w32 ∧ v86wide.vmxNonRoot = false ∧ modeOf v86wide = .v8086
    ∧ v86wide.cr4VME = false ∧ v86wide.eflags.IOPL = 3#2 ∧ popAt v86wide .w32 0 = .ok 0xFFFF#64
    ∧ popAt v86wide .w32 1 = .ok 0x6000#64 ∧ popAt v86wide .w32 2 = .ok 0x2D0202#64
    ∧ (0xFFFF#64).toNat ≤ 0xFFFF :=
  ⟨rfl, rfl, rfl, rfl, rfl, ok_of (by decide), ok_of (by decide), ok_of (by decide), by decide⟩

/-- IOPL one below 3; and V6(b), the instruction pointer one past its bound. -/
theorem witness_Virtual8086IoplGateFaults :
    let s := { v86 with eflags.IOPL := 2#2 }
    let u := { v86wide with mem := bytesAt 0x3FFE0 [0, 0, 1, 0, 0, 0x60, 0, 0, 2, 2, 0x2D, 0] }
    (Instr.iret noPrefix).opSize = some .w16 ∧ OpSize.w16 ≠ .w64 ∧ s.vmxNonRoot = false ∧ modeOf s = .v8086
    ∧ s.cr4VME = false ∧ s.eflags.IOPL ≠ 3#2
    ∧ (Instr.iretd66 noPrefix).opSize = some .w32 ∧ OpSize.w32 ≠ .w64 ∧ u.vmxNonRoot = false ∧ modeOf u = .v8086
    ∧ u.cr4VME = false ∧ u.eflags.IOPL = 3#2 ∧ popAt u .w32 0 = .ok 0x10000#64 ∧ popAt u .w32 1 = .ok 0x6000#64
    ∧ popAt u .w32 2 = .ok 0x2D0202#64 ∧ 0xFFFF < (0x10000#64).toNat :=
  ⟨rfl, by decide, rfl, rfl, rfl, by decide, rfl, by decide, rfl, rfl, rfl, rfl, ok_of (by decide), ok_of (by decide),
    ok_of (by decide), by decide⟩

/-- With a supervisor shadow stack, its token freed. -/
theorem witness_ReturnToVirtual8086Completes :
    let s := toV86Shadow
    (Instr.iretd noPrefix).opSize = some .w32 ∧ s.vmxNonRoot = false ∧ modeOf s = .protectedMode
    ∧ s.eflags.NT = false ∧ s.cpl = 0#2
    ∧ popAt s .w32 0 = .ok 0x100#64 ∧ popAt s .w32 1 = .ok 0x1000#64 ∧ popAt s .w32 2 = .ok 0x23202#64
    ∧ (0x23202#64).getLsbD 17 = true
    ∧ ¬ (s.cr4CET = true ∧ (s.uCet.getLsbD 2 = true ∨ s.uCet.getLsbD 0 = true))
    ∧ (0x100#64).toNat ≤ 0xFFFF
    ∧ popAt s .w32 3 = .ok 0xFFFE#64 ∧ popAt s .w32 4 = .ok 0x2000#64 ∧ popAt s .w32 5 = .ok 0x3000#64
    ∧ popAt s .w32 6 = .ok 0x4000#64 ∧ popAt s .w32 7 = .ok 0x5000#64 ∧ popAt s .w32 8 = .ok 0x6000#64
    ∧ (shadowStackEnabled s 0#2 = true → s.ssp.toNat % 8 = 0)
    ∧ ∃ u, (if shadowStackEnabled s 0#2 then tokenFree s s.ssp else .ok s) = .ok u :=
  ⟨rfl, rfl, rfl, rfl, rfl, ok_of (by decide), ok_of (by decide), ok_of (by decide), by decide, by decide, by decide,
    ok_of (by decide), ok_of (by decide), ok_of (by decide), ok_of (by decide), ok_of (by decide), ok_of (by decide),
    fun _ => by decide, answers_of (by decide)⟩

/-- The CET gate by either enable bit, the instruction pointer one past its bound, and SSP off its boundary. -/
theorem witness_ReturnToVirtual8086GatesFault :
    let wide := prot 0#2 0x3000#64 (valuesAt 4 0x3000 [0x10000, 0x1000, 0x23202])
    let off := { toV86Shadow with ssp := 0x5004#64 }
    (Instr.iretd noPrefix).opSize = some .w32 ∧ toV86.vmxNonRoot = false ∧ modeOf toV86 = .protectedMode
    ∧ toV86.eflags.NT = false ∧ toV86.cpl = 0#2
    ∧ popAt toV86 .w32 0 = .ok 0x100#64 ∧ popAt toV86 .w32 1 = .ok 0x1000#64 ∧ popAt toV86 .w32 2 = .ok 0x23202#64
    ∧ (0x23202#64).getLsbD 17 = true
    ∧ (({ toV86 with cr4CET := true, uCet := 4#64 }).cr4CET = true ∧ (4#64).getLsbD 2 = true)
    ∧ (({ toV86 with cr4CET := true, uCet := 1#64 }).cr4CET = true ∧ (1#64).getLsbD 0 = true)
    ∧ popAt wide .w32 0 = .ok 0x10000#64 ∧ popAt wide .w32 1 = .ok 0x1000#64 ∧ popAt wide .w32 2 = .ok 0x23202#64
    ∧ 0xFFFF < (0x10000#64).toNat
    ∧ modeOf off = .protectedMode ∧ off.eflags.NT = false ∧ off.cpl = 0#2
    ∧ popAt off .w32 0 = .ok 0x100#64 ∧ popAt off .w32 1 = .ok 0x1000#64 ∧ popAt off .w32 2 = .ok 0x23202#64
    ∧ ¬ (off.cr4CET = true ∧ (off.uCet.getLsbD 2 = true ∨ off.uCet.getLsbD 0 = true))
    ∧ (0x100#64).toNat ≤ 0xFFFF ∧ (∀ k, 3 ≤ k → k < 9 → ∃ v, popAt off .w32 k = .ok v)
    ∧ shadowStackEnabled off 0#2 = true ∧ off.ssp.toNat % 8 ≠ 0 := by
  refine ⟨rfl, rfl, rfl, rfl, rfl, ok_of (by decide), ok_of (by decide), ok_of (by decide), by decide, by decide,
    by decide, ok_of (by decide), ok_of (by decide), ok_of (by decide), by decide, rfl, rfl, rfl, ok_of (by decide),
    ok_of (by decide), ok_of (by decide), by decide, by decide, fun k h3 h9 => ?_, by decide, by decide⟩
  obtain rfl | rfl | rfl | rfl | rfl | rfl : k = 3 ∨ k = 4 ∨ k = 5 ∨ k = 6 ∨ k = 7 ∨ k = 8 := by omega
  all_goals exact answers_of (by decide)

theorem witness_SamePrivilegeReturnCompletes :
    let s := ring0
    (Instr.iretd noPrefix).opSize = some .w32 ∧ OpSize.w32 ≠ .w64 ∧ s.vmxNonRoot = false
    ∧ (modeOf s = .protectedMode ∨ modeOf s = .compat) ∧ s.eflags.NT = false
    ∧ popAt s .w32 0 = .ok 0x401000#64 ∧ popAt s .w32 1 = .ok 8#64 ∧ popAt s .w32 2 = .ok 0x202#64
    ∧ (modeOf s = .protectedMode → (0x202#64).getLsbD 17 = false ∨ s.cpl ≠ 0#2)
    ∧ readDescriptor s 8#16 = .ok (desc 8) ∧ codeSegmentReturnable s 8#16 (desc 8) ∧ selRpl 8#16 = s.cpl
    ∧ returnAddressOk s (desc 8) 0x401000#64
    ∧ shadowSameChecks s 8#16 (segFromDescriptor 8#16 (desc 8)) 0x401000#64 = .ok ⟨0#64, none⟩
    ∧ markAccessed s (loadSegment s 8#16 (desc 8)).mark = .ok s :=
  ⟨rfl, by decide, rfl, .inl rfl, rfl, ok_of (by decide), ok_of (by decide), ok_of (by decide),
    fun _ => .inl (by decide), ok_of (by decide), by unfold codeSegmentReturnable; decide, rfl,
    by unfold returnAddressOk; decide, ok_of (by decide), ok_of (by decide)⟩

/-- With CET on: a shadow-stack frame and a token above it. -/
theorem witness_SamePrivilegeReturnFrom64BitModeCompletes :
    let s := longSameShadow
    let newCS := segFromDescriptor 0x38#16 (desc 0x38)
    (Instr.iretq noPrefix).opSize = some .w64 ∧ s.vmxNonRoot = false ∧ modeOf s = .long64 ∧ s.eflags.NT = false
    ∧ popAt s .w64 0 = .ok 0xFFFFFFFF80001000#64 ∧ popAt s .w64 1 = .ok 0x38#64 ∧ popAt s .w64 2 = .ok 2#64
    ∧ readDescriptor s 0x38#16 = .ok (desc 0x38) ∧ codeSegmentReturnable s 0x38#16 (desc 0x38)
    ∧ selRpl 0x38#16 = s.cpl ∧ popAt s .w64 3 = .ok 0xFFFF800000020000#64 ∧ popAt s .w64 4 = .ok 0#64
    ∧ returnSSCheck s 0#16 s.cpl newCS = .ok ⟨nullSeg s.freeIdx 0#16, none⟩
    ∧ returnAddressOk s (desc 0x38) 0xFFFFFFFF80001000#64
    ∧ shadowSameChecks s 0x38#16 newCS 0xFFFFFFFF80001000#64 = .ok ⟨0x2000#64, some 0x1018#64⟩
    ∧ markAccessed s (loadSegment s 0x38#16 (desc 0x38)).mark = .ok s ∧ markAccessed s none = .ok s
    ∧ ∃ u, tokenFree s 0x1018#64 = .ok u :=
  ⟨rfl, rfl, rfl, rfl, ok_of (by decide), ok_of (by decide), ok_of (by decide), ok_of (by decide),
    by unfold codeSegmentReturnable; decide, rfl, ok_of (by decide), ok_of (by decide), rfl,
    by unfold returnAddressOk; decide, ok_of (by decide), ok_of (by decide), rfl, answers_of (by decide)⟩

theorem witness_IretqWithoutCetCompletes :
    let s := longOuter
    s.vmxNonRoot = false ∧ modeOf s = .long64 ∧ s.eflags.NT = false ∧ s.cr4CET = false
    ∧ popAt s .w64 0 = .ok 0x401000#64 ∧ popAt s .w64 1 = .ok 0x33#64 ∧ popAt s .w64 2 = .ok 0x202#64
    ∧ popAt s .w64 3 = .ok 0x00007FFFFFFFE000#64 ∧ popAt s .w64 4 = .ok 0x2B#64
    ∧ readDescriptor s 0x33#16 = .ok (desc 0x33) ∧ codeSegmentReturnable s 0x33#16 (desc 0x33)
    ∧ readDescriptor s 0x2B#16 = .ok (desc 0x2B) ∧ stackSegmentReturnable 0x2B#16 (selRpl 0x33#16) (desc 0x2B)
    ∧ returnAddressOk s (desc 0x33) 0x401000#64
    ∧ (s.params.descAccessedWriteback = true → (desc 0x33).getLsbD 40 = true ∧ (desc 0x2B).getLsbD 40 = true) :=
  ⟨rfl, rfl, rfl, rfl, ok_of (by decide), ok_of (by decide), ok_of (by decide), ok_of (by decide), ok_of (by decide),
    ok_of (by decide), by unfold codeSegmentReturnable; decide, ok_of (by decide),
    by unfold stackSegmentReturnable; decide, by unfold returnAddressOk; decide, fun _ => by decide⟩

/-- With CET on: SSP is restored from IA32_PL3_SSP and the token at SSP is freed; and size 32 in a legacy mode, with both
accessed bits to set. -/
theorem witness_OuterPrivilegeReturnCompletes :
    let s := longOuterShadow
    let newCS := segFromDescriptor 0x33#16 (desc 0x33)
    let r := unmarked
    let d := 0x00CFFA000000FFFF#64
    let ss := loadSegment r 0x23#16 0x00CFF2000000FFFF#64
    (Instr.iretq noPrefix).opSize = some .w64 ∧ (OpSize.w64 = .w64 → modeOf s = .long64) ∧ s.vmxNonRoot = false
    ∧ modeOf s ≠ .real ∧ modeOf s ≠ .v8086 ∧ s.eflags.NT = false
    ∧ popAt s .w64 0 = .ok 0x401000#64 ∧ popAt s .w64 1 = .ok 0x33#64 ∧ popAt s .w64 2 = .ok 0x202#64
    ∧ (modeOf s = .protectedMode → (0x202#64).getLsbD 17 = false ∨ s.cpl ≠ 0#2)
    ∧ readDescriptor s 0x33#16 = .ok (desc 0x33) ∧ codeSegmentReturnable s 0x33#16 (desc 0x33)
    ∧ s.cpl < selRpl 0x33#16 ∧ popAt s .w64 3 = .ok 0x00007FFFFFFFE000#64 ∧ popAt s .w64 4 = .ok 0x2B#64
    ∧ returnSSCheck s 0x2B#16 (selRpl 0x33#16) newCS = .ok ⟨seg 0x2B, none⟩
    ∧ returnAddressOk s (desc 0x33) 0x401000#64
    ∧ shadowOuterChecks s (selRpl 0x33#16) 0x33#16 newCS 0x401000#64 = .ok ⟨0x7FFFF0000FF8#64, some 0x1000#64⟩
    ∧ markAccessed s (loadSegment s 0x33#16 (desc 0x33)).mark = .ok s ∧ markAccessed s none = .ok s
    ∧ (∃ u, tokenFree s 0x1000#64 = .ok u)
    ∧ (Instr.iretd noPrefix).opSize = some .w32 ∧ r.eferLMA = false ∧ modeOf r = .protectedMode
    ∧ r.vmxNonRoot = false ∧ r.eflags.NT = false
    ∧ popAt r .w32 0 = .ok 0x401000#64 ∧ popAt r .w32 1 = .ok 0x1B#64 ∧ popAt r .w32 2 = .ok 0x3202#64
    ∧ (0x3202#64).getLsbD 17 = false
    ∧ readDescriptor r 0x1B#16 = .ok d ∧ codeSegmentReturnable r 0x1B#16 d
    ∧ r.cpl < selRpl 0x1B#16 ∧ popAt r .w32 3 = .ok 0x12FFF0#64 ∧ popAt r .w32 4 = .ok 0x23#64
    ∧ returnSSCheck r 0x23#16 (selRpl 0x1B#16) (segFromDescriptor 0x1B#16 d) = .ok ss
    ∧ returnAddressOk r d 0x401000#64
    ∧ shadowOuterChecks r (selRpl 0x1B#16) 0x1B#16 (segFromDescriptor 0x1B#16 d) 0x401000#64 = .ok ⟨0#64, none⟩
    ∧ (let u1 := { r with mem := r.mem.write 0x1001D 0xFB#8 }
      markAccessed r (loadSegment r 0x1B#16 d).mark = .ok u1
      ∧ markAccessed u1 ss.mark = .ok { u1 with mem := u1.mem.write 0x10025 0xF3#8 }) :=
  ⟨rfl, fun _ => rfl, rfl, by decide, by decide, rfl, ok_of (by decide), ok_of (by decide), ok_of (by decide),
    fun _ => .inl (by decide), ok_of (by decide), by unfold codeSegmentReturnable; decide, by decide,
    ok_of (by decide), ok_of (by decide), ok_of (by decide), by unfold returnAddressOk; decide, ok_of (by decide),
    ok_of (by decide), rfl, answers_of (by decide), rfl, rfl, rfl, rfl, rfl, ok_of (by decide), ok_of (by decide),
    ok_of (by decide), by decide, ok_of (by decide), by unfold codeSegmentReturnable; decide, by decide,
    ok_of (by decide), ok_of (by decide), ok_of (by decide), by unfold returnAddressOk; decide, ok_of (by decide),
    ok_of (by decide), ok_of (by decide)⟩

/-- A return address that is not canonical; and, from protected mode to the same level, one past the limit. -/
theorem witness_UnacceptedReturnAddressFaults :
    let s := longBad
    let u := tight
    (Instr.iretq noPrefix).opSize = some .w64 ∧ s.vmxNonRoot = false ∧ modeOf s = .long64 ∧ s.eflags.NT = false
    ∧ popAt s .w64 0 = .ok 0x800000000000#64 ∧ popAt s .w64 1 = .ok 0x33#64 ∧ popAt s .w64 2 = .ok 0x202#64
    ∧ readDescriptor s 0x33#16 = .ok (desc 0x33) ∧ codeSegmentReturnable s 0x33#16 (desc 0x33)
    ∧ popAt s .w64 3 = .ok 0x00007FFFFFFFE000#64 ∧ popAt s .w64 4 = .ok 0x2B#64
    ∧ returnSSCheck s 0x2B#16 (selRpl 0x33#16) (segFromDescriptor 0x33#16 (desc 0x33)) = .ok ⟨seg 0x2B, none⟩
    ∧ ¬ returnAddressOk s (desc 0x33) 0x800000000000#64
    ∧ (Instr.iretd noPrefix).opSize = some .w32 ∧ u.vmxNonRoot = false ∧ modeOf u = .protectedMode
    ∧ u.eflags.NT = false ∧ popAt u .w32 0 = .ok 0x1000#64 ∧ popAt u .w32 1 = .ok 8#64
    ∧ popAt u .w32 2 = .ok 0x202#64 ∧ (0x202#64).getLsbD 17 = false
    ∧ readDescriptor u 8#16 = .ok 0x00409B0000000FFF#64 ∧ codeSegmentReturnable u 8#16 0x00409B0000000FFF#64
    ∧ ¬ (u.cpl < selRpl 8#16 ∨ modeOf u = .long64) ∧ ¬ returnAddressOk u 0x00409B0000000FFF#64 0x1000#64 :=
  ⟨rfl, rfl, rfl, rfl, ok_of (by decide), ok_of (by decide), ok_of (by decide), ok_of (by decide),
    by unfold codeSegmentReturnable; decide, ok_of (by decide), ok_of (by decide), ok_of (by decide),
    by unfold returnAddressOk; decide, rfl, rfl, rfl, rfl, ok_of (by decide), ok_of (by decide), ok_of (by decide),
    by decide, ok_of (by decide), by unfold codeSegmentReturnable; decide, by decide,
    by unfold returnAddressOk; decide⟩

theorem witness_NestedTaskFlagFaultsInIa32eMode :
    let s := { longSame with eflags.NT := true }
    (Instr.iretq noPrefix).opSize = some .w64 ∧ (OpSize.w64 = .w64 → modeOf s = .long64) ∧ s.vmxNonRoot = false
    ∧ s.cr0PE = true ∧ s.eferLMA = true ∧ s.eflags.NT = true :=
  ⟨rfl, fun _ => rfl, rfl, rfl, rfl, rfl⟩

/-- At the bound: EIP is the limit of the incoming CS. -/
theorem witness_TaskReturnCompletes :
    let s := nestedWith 0xFFF#64
    let t := incoming 0xFFF#64
    (Instr.iretd noPrefix).opSize = some .w32 ∧ OpSize.w32 ≠ .w64 ∧ s.vmxNonRoot = false
    ∧ modeOf s = .protectedMode ∧ s.eflags.NT = true ∧ loadV s .supervisorRead s.tr.base 2 = .ok 0x50#64
    ∧ loadV s .supervisorRead (tssDescriptorAddr s 0x50#16) 8 = .ok (desc 0x50) ∧ taskLinkOk s 0x50#16 (desc 0x50)
    ∧ lookupTask 0x50#16 (s.rip + BitVec.ofNat 64 (Instr.iretd noPrefix).length) s.tasks = some (.switched t)
    ∧ translate (enterTask s t) .supervisorWrite (tssDescriptorAddr s s.tr.sel + 5#64) = .ok 0x1004D#64
    ∧ (t.rip.setWidth 32).toNat ≤ t.cs.limit.toNat :=
  ⟨rfl, by decide, rfl, rfl, rfl, ok_of (by decide), ok_of (by decide), by unfold taskLinkOk isTssDescriptor; decide, rfl,
    ok_of (by decide), by decide⟩

/-- EIP one past the bound; a page fault of the busy-bit write in the incoming task's translation; and an exception of the
switch. -/
theorem witness_TaskReturnLateFaultKeepsTheSwitch :
    let s := nestedWith 0x1000#64
    let t := incoming 0x1000#64
    let t' := { t with translation := [⟨.supervisorWrite, 0#64, 0xFFFFFFFF#64, .pageFault 2#32⟩] }
    let s' := { s with tasks := [⟨0x50#16, 1#64, .switched t'⟩] }
    let r := { s with tasks := [⟨0x50#16, 1#64, .raised (.taskSwitch 10#8 (some 0x50#32))⟩] }
    (Instr.iretd noPrefix).opSize = some .w32 ∧ OpSize.w32 ≠ .w64 ∧ s.vmxNonRoot = false
    ∧ modeOf s = .protectedMode ∧ s.eflags.NT = true ∧ loadV s .supervisorRead s.tr.base 2 = .ok 0x50#64
    ∧ loadV s .supervisorRead (tssDescriptorAddr s 0x50#16) 8 = .ok (desc 0x50) ∧ taskLinkOk s 0x50#16 (desc 0x50)
    ∧ lookupTask 0x50#16 (s.rip + BitVec.ofNat 64 (Instr.iretd noPrefix).length) s.tasks = some (.switched t)
    ∧ translate (enterTask s t) .supervisorWrite (tssDescriptorAddr s s.tr.sel + 5#64) = .ok 0x1004D#64
    ∧ t.cs.limit.toNat < (t.rip.setWidth 32).toNat
    ∧ modeOf s' = .protectedMode ∧ s'.eflags.NT = true ∧ loadV s' .supervisorRead s'.tr.base 2 = .ok 0x50#64
    ∧ loadV s' .supervisorRead (tssDescriptorAddr s' 0x50#16) 8 = .ok (desc 0x50)
    ∧ taskLinkOk s' 0x50#16 (desc 0x50)
    ∧ lookupTask 0x50#16 (s'.rip + BitVec.ofNat 64 (Instr.iretd noPrefix).length) s'.tasks = some (.switched t')
    ∧ translate (enterTask s' t') .supervisorWrite (tssDescriptorAddr s' s'.tr.sel + 5#64)
      = .error (.exc (.pf 2#32 0x1004D#64))
    ∧ modeOf r = .protectedMode ∧ r.eflags.NT = true ∧ loadV r .supervisorRead r.tr.base 2 = .ok 0x50#64
    ∧ loadV r .supervisorRead (tssDescriptorAddr r 0x50#16) 8 = .ok (desc 0x50) ∧ taskLinkOk r 0x50#16 (desc 0x50)
    ∧ lookupTask 0x50#16 (r.rip + BitVec.ofNat 64 (Instr.iretd noPrefix).length) r.tasks
      = some (.raised (.taskSwitch 10#8 (some 0x50#32))) :=
  ⟨rfl, by decide, rfl, rfl, rfl, ok_of (by decide), ok_of (by decide), by unfold taskLinkOk isTssDescriptor; decide, rfl,
    ok_of (by decide), by decide, rfl, rfl, ok_of (by decide), ok_of (by decide), by unfold taskLinkOk isTssDescriptor; decide, rfl,
    stop_of (by decide), rfl, rfl, ok_of (by decide), ok_of (by decide), by unfold taskLinkOk isTssDescriptor; decide, rfl⟩

/-- No rule at all; and one for another return address. -/
theorem witness_TaskReturnRefusedWithoutSwitchTasks :
    let s := nested 0x50
    let u := { nestedWith 0xFFF#64 with rip := 1#64 }
    (Instr.iretd noPrefix).opSize = some .w32 ∧ OpSize.w32 ≠ .w64 ∧ s.vmxNonRoot = false
    ∧ modeOf s = .protectedMode ∧ s.eflags.NT = true ∧ loadV s .supervisorRead s.tr.base 2 = .ok 0x50#64
    ∧ loadV s .supervisorRead (tssDescriptorAddr s 0x50#16) 8 = .ok (desc 0x50) ∧ taskLinkOk s 0x50#16 (desc 0x50)
    ∧ s.tasks = []
    ∧ ∀ r ∈ u.tasks, ¬ (r.link = 0x50#16 ∧ r.returnIp = u.rip + BitVec.ofNat 64 (Instr.iretd noPrefix).length) :=
  ⟨rfl, by decide, rfl, rfl, rfl, ok_of (by decide), ok_of (by decide), by unfold taskLinkOk isTssDescriptor; decide,
    rfl, by decide⟩

/-- A local link; one past the GDT limit; no TSS; a TSS that is not busy; a page fault of the back link, and of the last
descriptor inside the GDT limit. -/
theorem witness_BadBackLinkFaults :
    let noLink := faulting (nested 0x50) .supervisorRead 0x501 0x501
    let noDesc := faulting (nested 0x58) .supervisorRead 0x1005F 0x1005F
    let idle := { nested 0x50 with mem := valuesAt 2 0x500 [0x50] ++ valuesAt 8 0x10000 (gdt.set 10 0x0000890000000067) }
    (Instr.iretd noPrefix).opSize = some .w32 ∧ OpSize.w32 ≠ .w64
    ∧ (nested 8).vmxNonRoot = false ∧ modeOf (nested 8) = .protectedMode ∧ (nested 8).eflags.NT = true
    ∧ (loadV (nested 0x2C) .supervisorRead (nested 0x2C).tr.base 2 = .ok 0x2C#64 ∧ (0x2C#64).getLsbD 2 = true)
    ∧ (loadV (nested 0x60) .supervisorRead (nested 0x60).tr.base 2 = .ok 0x60#64
      ∧ (nested 0x60).gdtr.limit.toNat < 8 * ((0x60#64).extractLsb' 3 13).toNat + 7)
    ∧ (loadV (nested 8) .supervisorRead (nested 8).tr.base 2 = .ok 8#64
      ∧ loadV (nested 8) .supervisorRead (tssDescriptorAddr (nested 8) 8#16) 8 = .ok (desc 8)
      ∧ ¬ isTssDescriptor (desc 8))
    ∧ (loadV idle .supervisorRead idle.tr.base 2 = .ok 0x50#64
      ∧ loadV idle .supervisorRead (tssDescriptorAddr idle 0x50#16) 8 = .ok 0x0000890000000067#64
      ∧ (0x0000890000000067#64).getLsbD 41 = false)
    ∧ (modeOf noLink = .protectedMode ∧ noLink.eflags.NT = true
      ∧ loadV noLink .supervisorRead noLink.tr.base 2 = .error (.exc (.pf 3#32 0x501#64)))
    ∧ (modeOf noDesc = .protectedMode ∧ noDesc.eflags.NT = true
      ∧ loadV noDesc .supervisorRead noDesc.tr.base 2 = .ok 0x58#64 ∧ (0x58#64).getLsbD 2 = false
      ∧ 8 * ((0x58#64).extractLsb' 3 13).toNat + 7 ≤ noDesc.gdtr.limit.toNat
      ∧ loadV noDesc .supervisorRead (tssDescriptorAddr noDesc 0x58#16) 8 = .error (.exc (.pf 3#32 0x1005F#64))) :=
  ⟨rfl, by decide, rfl, rfl, rfl, ⟨ok_of (by decide), by decide⟩, ⟨ok_of (by decide), by decide⟩,
    ⟨ok_of (by decide), ok_of (by decide), by unfold isTssDescriptor; decide⟩,
    ⟨ok_of (by decide), ok_of (by decide), by decide⟩, ⟨rfl, rfl, stop_of (by decide)⟩, ⟨rfl, rfl, ok_of (by decide), by decide, by decide, stop_of (by decide)⟩⟩

theorem witness_EveryExecutionUnblocksNmi :
    (∃ t, exec (.iret noPrefix) real = .next t ∧ real.nmiBlocked = true)
    ∧ ((Instr.iretq noPrefix).opSize = some .w64
      ∧ ∃ left, exec (.iretq noPrefix) longBad = .fault (.exception gp0 left))
    ∧ (Instr.lockIret ⟨[.lock], none⟩).opSize = none
    ∧ ∃ left, exec (.lockIret ⟨[.lock], none⟩) real = .fault (.exception .ud left) := by
  obtain ⟨t, h, -⟩ := next_of (f := fun _ => true) (by decide : nextIs (exec (.iret noPrefix) real) _ = true)
  exact ⟨⟨t, h, rfl⟩, ⟨rfl, fault_of test_iretq_not_canonical⟩, rfl, _, rfl⟩

theorem witness_FaultsArePrecise :
    (Instr.iretq noPrefix).opSize = some .w64 ∧ (∃ left, exec (.iretq noPrefix) longBad = .fault (.exception gp0 left))
    ∧ (Instr.iretd noPrefix).opSize = some .w32
    ∧ ∃ left, exec (.iretd noPrefix) (nestedWith 0x1000#64) = .fault (.exception gp0 left) :=
  ⟨rfl, fault_of test_iretq_not_canonical, rfl, late_of (by decide)⟩

/-- The RPL at its bounds (10_state.md R35), and a selector that passes. -/
theorem witness_CodeSegmentCheckPassesExactly :
    selRpl 0xFFFC#16 = 0#2 ∧ selRpl 0xFFFF#16 = 3#2 ∧ selRpl 0x1A#16 = 2#2
    ∧ answers (returnCSCheck outer 0x1B#16) = true := by
  decide

/-- A NULL selector at its bound 3; one selector for each row of 44 R210. -/
theorem witness_CodeSegmentCheckFaultsByRow :
    (3#16).toNat < 4
    ∧ (readDescriptor ring0 0x50#16 = .ok (desc 0x50) ∧ (desc 0x50).getLsbD 44 = false)
    ∧ (readDescriptor ring0 0x10#16 = .ok (desc 0x10) ∧ (desc 0x10).getLsbD 43 = false)
    ∧ (readDescriptor ring3 8#16 = .ok (desc 8) ∧ selRpl 8#16 < ring3.cpl)
    ∧ (readDescriptor ring0 0x58#16 = .ok (desc 0x58) ∧ (desc 0x58).getLsbD 42 = true
      ∧ selRpl 0x58#16 < (desc 0x58).extractLsb' 45 2)
    ∧ (readDescriptor ring0 0x19#16 = .ok (desc 0x19) ∧ (desc 0x19).getLsbD 42 = false
      ∧ (desc 0x19).extractLsb' 45 2 ≠ selRpl 0x19#16)
    ∧ (readDescriptor longSame 0x40#16 = .ok (desc 0x40) ∧ longSame.eferLMA = true
      ∧ (desc 0x40).getLsbD 53 = true ∧ (desc 0x40).getLsbD 54 = true)
    ∧ (readDescriptor ring0 0x48#16 = .ok (desc 0x48) ∧ codeDescriptorRows ring0 0x48#16 (desc 0x48) = true
      ∧ (desc 0x48).getLsbD 47 = false)
    ∧ readDescriptor ring0 0x60#16 = .error (.exc (.gp (some 0x60#32)))
    ∧ ((Instr.iretd noPrefix).opSize = some .w32 ∧ modeOf badCs = .protectedMode ∧ badCs.vmxNonRoot = false
      ∧ badCs.eflags.NT = false ∧ popAt badCs .w32 0 = .ok 0x401000#64 ∧ popAt badCs .w32 1 = .ok 0x48#64
      ∧ popAt badCs .w32 2 = .ok 0x202#64 ∧ (0x202#64).getLsbD 17 = false
      ∧ returnCSCheck badCs 0x48#16 = .error (.exc (.np 0x48#32))) :=
  ⟨by decide, ⟨ok_of (by decide), by decide⟩, ⟨ok_of (by decide), by decide⟩, ⟨ok_of (by decide), by decide⟩,
    ⟨ok_of (by decide), by decide⟩, ⟨ok_of (by decide), by decide⟩, ⟨ok_of (by decide), by decide⟩,
    ⟨ok_of (by decide), by decide⟩,
    stop_of (by decide), ⟨rfl, rfl, rfl, rfl, ok_of (by decide), ok_of (by decide), ok_of (by decide), by decide,
    stop_of (by decide)⟩⟩

theorem witness_StackSegmentCheckPassesExactly : 4 ≤ (4#16).toNat := by decide

/-- The RPL, the type, the DPL, and a segment that is not present. -/
theorem witness_StackSegmentCheckFaultsByRow :
    let absent := { outer with mem := valuesAt 8 0x10000 (gdt.set 4 0x00CF73000000FFFF) }
    (4 ≤ (0x13#16).toNat ∧ readDescriptor ring0 0x10#16 = .ok (desc 0x10) ∧ selRpl 0x10#16 ≠ 3#2)
    ∧ (readDescriptor ring0 0x1B#16 = .ok (desc 0x1B) ∧ (desc 0x1B).getLsbD 43 ≠ false)
    ∧ (readDescriptor ring0 0x13#16 = .ok (desc 0x13) ∧ (desc 0x13).extractLsb' 45 2 ≠ 3#2)
    ∧ (readDescriptor absent 0x23#16 = .ok 0x00CF73000000FFFF#64
      ∧ stackDescriptorRows 0x23#16 3#2 0x00CF73000000FFFF#64 = true
      ∧ (0x00CF73000000FFFF#64).getLsbD 47 = false)
    ∧ readDescriptor ring0 0x63#16 = .error (.exc (.gp (some 0x60#32)))
    ∧ ((Instr.iretd noPrefix).opSize = some .w32 ∧ modeOf badSs = .protectedMode ∧ badSs.vmxNonRoot = false
      ∧ badSs.eflags.NT = false ∧ popAt badSs .w32 0 = .ok 0x401000#64 ∧ popAt badSs .w32 1 = .ok 0x1B#64
      ∧ popAt badSs .w32 2 = .ok 0x202#64 ∧ (0x202#64).getLsbD 17 = false
      ∧ returnCSCheck badSs 0x1B#16 = .ok ⟨seg 0x1B, none⟩ ∧ badSs.cpl < selRpl 0x1B#16
      ∧ popAt badSs .w32 3 = .ok 0x12FFF0#64 ∧ popAt badSs .w32 4 = .ok 0x13#64
      ∧ returnSSCheck badSs 0x13#16 3#2 (seg 0x1B) = .error (.exc (.gp (some 0x10#32)))) :=
  ⟨⟨by decide, ok_of (by decide), by decide⟩, ⟨ok_of (by decide), by decide⟩, ⟨ok_of (by decide), by decide⟩,
    ⟨ok_of (by decide), by decide, by decide⟩, stop_of (by decide),
    ⟨rfl, rfl, rfl, rfl, ok_of (by decide), ok_of (by decide), ok_of (by decide), by decide, ok_of (by decide),
    by decide, ok_of (by decide), ok_of (by decide), stop_of (by decide)⟩⟩

/-- At the bound, a selector accepted, and one refused. -/
theorem witness_NullStackSelectorAcceptedExactly :
    (3#16).toNat < 4 ∧ (∃ l, returnSSCheck longSame 0#16 0#2 (seg 0x38) = .ok l)
    ∧ (∃ e, returnSSCheck longSame 3#16 3#2 (seg 0x33) = .error e) :=
  ⟨by decide, ⟨_, rfl⟩, ⟨.exc gp0, rfl⟩⟩

/-- No LDT; one past the limit of the GDT and of the LDT; a table base that is not canonical; and the last descriptor
inside the limit of each table. -/
theorem witness_DescriptorLookupFollowsTheTables :
    let high := { longSame with gdtr.base := 0x800000000000#64 }
    let local' := { ring0 with ldtr := ⟨0x50#16, true, 0x10000#64, 0x5F#32⟩ }
    ((0xC#16).getLsbD 2 = true ∧ ({ ring0 with ldtr.valid := false }).ldtr.valid = false)
    ∧ ((0x60#16).getLsbD 2 = false ∧ ring0.gdtr.limit.toNat < 8 * ((0x60#16).extractLsb' 3 13).toNat + 7)
    ∧ ((0x64#16).getLsbD 2 = true ∧ local'.ldtr.limit.toNat < 8 * ((0x64#16).extractLsb' 3 13).toNat + 7)
    ∧ (high.eferLMA = true ∧ (8#16).getLsbD 2 = false ∧ canonical high (high.gdtr.base + 8#64) = false)
    ∧ ((0x58#16).getLsbD 2 = false ∧ 8 * ((0x58#16).extractLsb' 3 13).toNat + 7 ≤ longSame.gdtr.limit.toNat
      ∧ canonical longSame (longSame.gdtr.base + BitVec.ofNat 64 (8 * ((0x58#16).extractLsb' 3 13).toNat)) = true)
    ∧ ((0x5C#16).getLsbD 2 = true ∧ local'.ldtr.valid = true ∧ local'.eferLMA = false
      ∧ 8 * ((0x5C#16).extractLsb' 3 13).toNat + 7 ≤ local'.ldtr.limit.toNat) := by decide

/-- Two bytes in order; an address above 2^32 in real-address mode; the last linear address of a rule, mapped and faulting,
and the first one past it; the same in IA-32e mode; and a listed and an unlisted byte. -/
theorem witness_ReadsAreLittleEndian :
    let acc := Access.dataRead 0#2
    let mapped := { ring0 with translation := [⟨acc, 0x5000#64, 0x5FFF#64, .physical 0x10000#64⟩] }
    let wide := { long 8 [0xCF] with translation := [⟨acc, 0x100000000#64, 0x100000FFF#64, .physical 0x200000#64⟩] }
    (2 ≤ 8 ∧ loadByte real acc 0xFFA#64 = .ok 0x34#8 ∧ loadByte real acc (0xFFA#64 + 1#64) = .ok 0x12#8)
    ∧ (real.cr0PE = false ∧ loadByte real acc 0x100000FFA#64 = .ok 0x34#8)
    ∧ (mapped.cr0PE = true ∧ loadByte mapped acc 0x500E#64 = .ok 0xCF#8 ∧ loadByte mapped acc 0x5FFF#64 = .ok 0#8
      ∧ loadByte mapped acc 0x6000#64 = .ok 0#8 ∧ loadByte mapped acc 0x1000E#64 = .ok 0xCF#8)
    ∧ (let s := faulting ring0 acc 0x5000 0x5FFF
      s.cr0PE = true ∧ loadByte s acc 0x100005FFF#64 = .error (.exc (.pf 3#32 0x5FFF#64)))
    ∧ (wide.cr0PE = true ∧ wide.eferLMA = true ∧ loadByte wide acc 0x100000000#64 = .ok 0xCF#8)
    ∧ (real.mem.wf = true ∧ (0xFFA, 0x34#8) ∈ real.mem ∧ real.mem.read 0xFF9 = 0#8) :=
  ⟨⟨by decide, ok_of (by decide), ok_of (by decide)⟩, ⟨rfl, ok_of (by decide)⟩,
    ⟨rfl, ok_of (by decide), ok_of (by decide), ok_of (by decide), ok_of (by decide)⟩, ⟨rfl, stop_of (by decide)⟩,
    ⟨rfl, rfl, ok_of (by decide)⟩, by decide⟩

theorem witness_StackOffsetsWrapAtTheStackAddressSize :
    9 ≤ 9 ∧ modeOf longSame = .long64 ∧ (modeOf ring0 ≠ .long64 ∧ ring0.ss.DB = true)
    ∧ (modeOf real ≠ .long64 ∧ real.ss.DB = false) := by decide

/-- A canonical bound from either side; the last byte one past the limit, an expand-down segment, misaligned at level 3,
and inside and aligned; the third, the fifth and the ninth pop as the first that fails. -/
theorem witness_StackReadChecksInOrder :
    let s := { ring3 with cr0AM := true, eflags.AC := true }
    let down := { real with ss.expandDown := true, ss.limit := 0xFF9#32 }
    let third := { real with rsp := StackReg.ofWord 0xFFFB#64 }
    let fifth := { outer with ss.limit := 0x2010#32 }
    let ninth := { toV86 with ss.limit := 0x3020#32 }
    (slotOffset third .w16 2 = 0xFFFF#64 ∧ ∃ v, stackRead third 0xFFFD#64 2 = .ok v)
    ∧ (modeOf longSame = .long64 ∧ canonical longSame 0x00007FFFFFFFFFFF#64 = true
      ∧ canonical longSame 0x0000800000000000#64 = false ∧ canonical longSame 0xFFFF800000000000#64 = true)
    ∧ (modeOf real ≠ .long64 ∧ stackInBounds real 0xFFFF#64 2 = false)
    ∧ (modeOf down ≠ .long64 ∧ down.ss.code = false ∧ down.ss.expandDown = true
      ∧ stackInBounds down 0xFFA#64 2 = true ∧ stackInBounds down 0xFF9#64 2 = false)
    ∧ (stackInBounds s 0x8001#64 4 = true ∧ stackAligned s 0x8001#64 4 = false)
    ∧ (stackInBounds s 0x8004#64 4 = true ∧ stackAligned s 0x8004#64 4 = true)
    ∧ ((Instr.iret noPrefix).opSize = some .w16 ∧ third.vmxNonRoot = false ∧ modeOf third = .real
      ∧ (∀ j, j < 2 → ∃ v, popAt third .w16 j = .ok v) ∧ popAt third .w16 2 = .error (.exc (.ss none)))
    ∧ ((Instr.iretd noPrefix).opSize = some .w32 ∧ fifth.vmxNonRoot = false ∧ modeOf fifth = .protectedMode
      ∧ fifth.eflags.NT = false ∧ popAt fifth .w32 1 = .ok 0x1B#64 ∧ popAt fifth .w32 2 = .ok 0x3202#64
      ∧ (0x3202#64).getLsbD 17 = false ∧ returnCSCheck fifth 0x1B#16 = .ok ⟨seg 0x1B, none⟩
      ∧ fifth.cpl < selRpl 0x1B#16 ∧ (∀ j, j < 4 → ∃ v, popAt fifth .w32 j = .ok v)
      ∧ popAt fifth .w32 4 = .error (.exc (.ss (some 0#32))))
    ∧ (modeOf ninth = .protectedMode ∧ ninth.vmxNonRoot = false ∧ ninth.eflags.NT = false ∧ ninth.cpl = 0#2
      ∧ popAt ninth .w32 0 = .ok 0x100#64 ∧ popAt ninth .w32 2 = .ok 0x23202#64 ∧ (0x23202#64).getLsbD 17 = true
      ∧ (0x100#64).toNat ≤ 0xFFFF ∧ ninth.cr4CET = false ∧ (∀ j, j < 8 → ∃ v, popAt ninth .w32 j = .ok v)
      ∧ popAt ninth .w32 8 = .error (.exc (.ss (some 0#32)))) :=
  ⟨⟨by decide, _, ok_of (v := 0#64) (by decide)⟩, by decide, by decide, by decide, by decide, by decide,
    ⟨rfl, rfl, rfl, pops_of (by decide), stop_of (by decide)⟩,
    ⟨rfl, rfl, rfl, rfl, ok_of (by decide), ok_of (by decide), by decide, ok_of (by decide), by decide,
      pops_of (by decide), stop_of (by decide)⟩,
    ⟨rfl, rfl, rfl, rfl, ok_of (by decide), ok_of (by decide), by decide, by decide, rfl, pops_of (by decide),
      stop_of (by decide)⟩⟩

theorem witness_AlignmentFaultsOnlyAtCpl3 :
    (Instr.iretd noPrefix).opSize = some .w32 ∧ takesTaskReturn ring0 = false ∧ ring0.cpl ≠ 3#2 :=
  ⟨rfl, rfl, by decide⟩

theorem witness_StackPointerAdvanceBySize :
    stackAddrSize real = .w16 ∧ stackAddrSize ring0 = .w32
    ∧ (stackAddrSize { ring0 with eferLMA := true } = .w32 ∧ inIa32e { ring0 with eferLMA := true } = true)
    ∧ stackAddrSize longSame = .w64 := by decide

/-- IF, IOPL and the other guarded fields at level 3, IOPL 0. -/
theorem witness_OnlyCpl0ChangesIoplAndVirtualFlags :
    (Instr.iret66 noPrefix).opSize = some .w16 ∧ ring3.cr0PE = true ∧ takesTaskReturn ring3 = false
    ∧ ring3.cpl ≠ 0#2 ∧ ∃ t, exec (.iret66 noPrefix) ring3 = .next t := by
  obtain ⟨t, h, -⟩ := next_of test_iret66_ring3
  exact ⟨rfl, rfl, rfl, by decide, t, h⟩

theorem witness_InterruptFlagGuardedByIopl :
    (Instr.iret66 noPrefix).opSize = some .w16 ∧ ring3.cr0PE = true ∧ takesTaskReturn ring3 = false
    ∧ ring3.eflags.IOPL < ring3.cpl ∧ ∃ t, exec (.iret66 noPrefix) ring3 = .next t := by
  obtain ⟨t, h, -⟩ := next_of test_iret66_ring3
  exact ⟨rfl, rfl, rfl, by decide, t, h⟩

theorem witness_SixteenBitReturnKeepsHighFlags :
    (Instr.iret66 noPrefix).opSize = some .w16 ∧ takesTaskReturn ring3 = false
    ∧ ∃ t, exec (.iret66 noPrefix) ring3 = .next t := by
  obtain ⟨t, h, -⟩ := next_of test_iret66_ring3
  exact ⟨rfl, rfl, t, h⟩

theorem witness_VirtualFlagSetOnlyByReturnToVirtual8086 :
    (Instr.iretd66 noPrefix).opSize = some .w32 ∧ takesTaskReturn toV86 = false
    ∧ ∃ t, exec (.iretd66 noPrefix) toV86 = .next t ∧ t.eflags.VM ≠ toV86.eflags.VM := by
  obtain ⟨t, h, ht⟩ := next_of test_iretd66_to_v86
  refine ⟨rfl, rfl, t, h, ?_⟩
  simp only [Bool.and_eq_true] at ht
  rw [ht.1.2]
  decide

theorem witness_PrivilegeIsNeverRaised :
    (Instr.iretd noPrefix).opSize = some .w32 ∧ takesTaskReturn outer = false
    ∧ ∃ t, exec (.iretd noPrefix) outer = .next t := by
  obtain ⟨t, h, -⟩ := next_of test_iretd_outer
  exact ⟨rfl, rfl, t, h⟩

/-- An outer return, and a task return. -/
theorem witness_SystemRegistersAreLeftAlone :
    ((∃ t, exec (.iretd noPrefix) outer = .next t) ∧ takesTaskReturn outer = false)
    ∧ (∃ t, exec (.iretd noPrefix) (nestedWith 0xFFF#64) = .next t) ∧ takesTaskReturn (nestedWith 0xFFF#64) = true := by
  obtain ⟨t, h, -⟩ := next_of test_iretd_outer
  obtain ⟨u, hu, -⟩ := next_of (f := fun _ => true)
    (by decide : nextIs (exec (.iretd noPrefix) (nestedWith 0xFFF#64)) _ = true)
  exact ⟨⟨⟨t, h⟩, rfl⟩, ⟨u, hu⟩, rfl⟩

theorem witness_SameLevelKeepsDataSegments :
    (Instr.iretd noPrefix).opSize = some .w32 ∧ takesTaskReturn ring0 = false
    ∧ ∃ t, exec (.iretd noPrefix) ring0 = .next t ∧ t.cpl = ring0.cpl := by
  obtain ⟨t, h, ht⟩ := next_of (f := fun t => decide (t.cpl = ring0.cpl))
    (by decide : nextIs (exec (.iretd noPrefix) ring0) _ = true)
  exact ⟨rfl, rfl, t, h, of_decide_eq_true ht⟩

theorem witness_OuterReturnNullifiesInaccessibleSegments :
    (Instr.iretd noPrefix).opSize = some .w32 ∧ takesTaskReturn outer = false
    ∧ (∃ t, exec (.iretd noPrefix) outer = .next t ∧ outer.cpl < t.cpl ∧ t.eflags.VM = outer.eflags.VM)
    ∧ inaccessible outer.ds 3#2 ∧ ¬ inaccessible outer.es 3#2 := by
  obtain ⟨t, h, ht⟩ := next_of (f := fun t => decide (outer.cpl < t.cpl ∧ t.eflags.VM = outer.eflags.VM))
    (by decide : nextIs (exec (.iretd noPrefix) outer) _ = true)
  exact ⟨rfl, rfl, ⟨t, h, of_decide_eq_true ht⟩, by unfold inaccessible; decide, by unfold inaccessible; decide⟩

/-- No target translates to the byte. -/
def misses (s : State) (a : Nat) (l : List (Access × Word)) : Bool :=
  l.all fun p => match translate s p.1 p.2 with
    | .ok pa => pa.toNat != a
    | .error _ => true

theorem misses_of {s : State} {a : Nat} {l : List (Access × Word)} (h : misses s a l = true) :
    ∀ p ∈ l, ∀ pa, translate s p.1 p.2 = .ok pa → pa.toNat ≠ a := by
  intro p hp pa hpa
  have := List.all_eq_true.mp h p hp
  rw [hpa] at this
  exact bne_iff_ne.mp this

/-- The first byte past the token, with a token freed. -/
theorem witness_StoresOnlyAtComputedAddresses :
    (Instr.iretq noPrefix).opSize = some .w64 ∧ takesTaskReturn longOuterShadow = false
    ∧ (∃ t, exec (.iretq noPrefix) longOuterShadow = .next t)
    ∧ ∀ p ∈ storeTargets .w64 longOuterShadow, ∀ pa,
      translate longOuterShadow p.1 p.2 = .ok pa → pa.toNat ≠ 0x1008 := by
  obtain ⟨t, h, -⟩ := next_of (f := fun _ => true)
    (by decide : nextIs (exec (.iretq noPrefix) longOuterShadow) _ = true)
  exact ⟨rfl, rfl, ⟨t, h⟩, misses_of (by decide)⟩

theorem witness_RealAndVirtual8086ReturnsStoreNothing :
    (Instr.iret noPrefix).opSize = some .w16 ∧ (modeOf v86 = .real ∨ modeOf v86 = .v8086)
    ∧ ∃ t, exec (.iret noPrefix) v86 = .next t := by
  obtain ⟨t, h, -⟩ := next_of (f := fun _ => true) (by decide : nextIs (exec (.iret noPrefix) v86) _ = true)
  exact ⟨rfl, .inr rfl, t, h⟩

/-- A return without CET; and, without shadow stacks at either level, a task return to a task that holds another SSP, which
with a shadow stack at the old level takes that one. -/
theorem witness_ShadowStackInertWithoutCet :
    let s := { nestedWith 0xFFF#64 with ssp := 0x77#64 }
    let u := { s with cr4CET := true, sCet := 1#64 }
    (Instr.iretd noPrefix).opSize = some .w32 ∧ takesTaskReturn outer = false ∧ outer.cr4CET = false
    ∧ (∃ t, exec (.iretd noPrefix) outer = .next t)
    ∧ takesTaskReturn s = true ∧ shadowStackEnabled s s.cpl = false
    ∧ (∃ t, exec (.iretd noPrefix) s = .next t ∧ (!shadowStackEnabled t t.cpl && t.ssp == 0x77#64) = true)
    ∧ ∃ t, exec (.iretd noPrefix) u = .next t ∧ (t.ssp == 0#64) = true := by
  obtain ⟨t, h, -⟩ := next_of test_iretd_outer
  exact ⟨rfl, rfl, rfl, ⟨t, h⟩, rfl, rfl, next_of (by decide), next_of (by decide)⟩

/-- The premises of a return that reaches the shadow-stack checks, from what its parts answer. -/
theorem reaches_of {n : OpSize} {s : State} {ip w fl sp ss d : Word} {newSS : LoadedSeg}
    (hv : s.vmxNonRoot = false) (hq : n = .w64 → modeOf s = .long64) (h1 : modeOf s ≠ .real) (h2 : modeOf s ≠ .v8086)
    (hn : s.eflags.NT = false) (p0 : popAt s n 0 = .ok ip) (p1 : popAt s n 1 = .ok w) (p2 : popAt s n 2 = .ok fl)
    (hf : fl.getLsbD 17 = false) (hd : readDescriptor s (w.setWidth 16) = .ok d)
    (hc : codeSegmentReturnable s (w.setWidth 16) d) (p3 : popAt s n 3 = .ok sp) (p4 : popAt s n 4 = .ok ss)
    (hs : returnSSCheck s (ss.setWidth 16) (selRpl (w.setWidth 16)) (segFromDescriptor (w.setWidth 16) d) = .ok newSS)
    (ha : returnAddressOk s d ip) : reachesShadowChecks n s ip (w.setWidth 16) d :=
  ⟨hv, hq, h1, h2, hn, ⟨w, fl, p0, p1, rfl, p2, fun _ => .inl hf⟩, hd, hc, fun _ => ⟨sp, ss, newSS, p3, p4, hs⟩, ha⟩

/-- V27 with SSP off its boundary: the checks raise #CP. -/
theorem witness_ShadowChecksOfReturnToLevel3 :
    let s := { longOuterShadow with ssp := 0x1004#64 }
    reachesShadowChecks .w64 s 0x401000#64 0x33#16 (desc 0x33) ∧ s.cpl < selRpl 0x33#16 ∧ selRpl 0x33#16 = 3#2
    ∧ shadowOuterChecks s 3#2 0x33#16 (seg 0x33) 0x401000#64 = .error (.exc .cp) :=
  ⟨reaches_of (w := 0x33#64) (fl := 0x202#64) (sp := 0x00007FFFFFFFE000#64) (ss := 0x2B#64) (newSS := ⟨seg 0x2B, none⟩)
    rfl (fun _ => rfl) (by decide) (by decide) rfl (ok_of (by decide)) (ok_of (by decide)) (ok_of (by decide))
    (by decide) (ok_of (by decide)) (by unfold codeSegmentReturnable; decide) (ok_of (by decide)) (ok_of (by decide))
    (ok_of (by decide)) (by unfold returnAddressOk; decide), by decide, by decide, stop_of (by decide)⟩

/-- Returns to level 1: no shadow stack; SSP off its boundary; each of the three loads as the first that fails; a frame that
matches, and one whose CS does not, which ends the return in #CP. -/
theorem witness_ShadowChecksOfReturnToSupervisorLevel :
    let s := toRing1 [0x2000, 0x401000, 0x18]
    let load := Access.shadowRead false
    s.cpl < 1#2 ∧ 1#2 ≠ 3#2 ∧ shadowStackEnabled ring0 ring0.cpl = false
    ∧ shadowUser { s with cpl := 2#2 } = false ∧ shadowUser { s with cpl := 3#2 } = true
    ∧ (shadowStackEnabled { s with ssp := 0x1804#64 } s.cpl = true ∧ (0x1804#64).toNat % 8 ≠ 0)
    ∧ shadowStackEnabled s s.cpl = true ∧ s.ssp.toNat % 8 = 0
    ∧ shstkLoad8 (faulting s load 0x1817 0x1817) 0x1810#64 = .error (.exc (.pf 3#32 0x1817#64))
    ∧ (shstkLoad8 (faulting s load 0x1800 0x180F) 0x1810#64 = .ok 0x18#64
      ∧ shstkLoad8 (faulting s load 0x1800 0x180F) 0x1808#64 = .error (.exc (.pf 3#32 0x1808#64)))
    ∧ (shstkLoad8 (faulting s load 0x1800 0x1807) 0x1810#64 = .ok 0x18#64
      ∧ shstkLoad8 (faulting s load 0x1800 0x1807) 0x1808#64 = .ok 0x401000#64
      ∧ shstkLoad8 (faulting s load 0x1800 0x1807) 0x1800#64 = .error (.exc (.pf 3#32 0x1800#64)))
    ∧ (shstkLoad8 s 0x1810#64 = .ok 0x18#64 ∧ 0x18#64 ≠ (0x19#16).setWidth 64
      ∧ shstkLoad8 s 0x1808#64 = .ok (lip s (segFromDescriptor 0x19#16 0x00CFBB000000FFFF#64) 0x401000#64)
      ∧ shstkLoad8 s 0x1800#64 = .ok 0x2000#64 ∧ (0x2000#64).toNat % 4 = 0)
    ∧ (reachesShadowChecks .w32 s 0x401000#64 0x19#16 0x00CFBB000000FFFF#64 ∧ selRpl 0x19#16 = 1#2
      ∧ shadowOuterChecks s 1#2 0x19#16 (segFromDescriptor 0x19#16 0x00CFBB000000FFFF#64) 0x401000#64
        = .error (.exc .cp))
    ∧ answers (shadowOuterChecks (toRing1 [0x2000, 0x401000, 0x19]) 1#2 0x19#16
      (segFromDescriptor 0x19#16 0x00CFBB000000FFFF#64) 0x401000#64) = true :=
  ⟨by decide, by decide, by decide, rfl, rfl, by decide, by decide, by decide, stop_of (by decide),
    ⟨ok_of (by decide), stop_of (by decide)⟩, ⟨ok_of (by decide), ok_of (by decide), stop_of (by decide)⟩,
    ⟨ok_of (by decide), by decide, ok_of (by decide), ok_of (by decide), by decide⟩,
    ⟨reaches_of (w := 0x19#64) (fl := 0x3202#64) (sp := 0x12FFF0#64) (ss := 0x21#64)
      (newSS := ⟨segFromDescriptor 0x21#16 0x00CFB3000000FFFF#64, none⟩)
      rfl (fun h => nomatch h) (by decide) (by decide) rfl (ok_of (by decide)) (ok_of (by decide)) (ok_of (by decide))
      (by decide) (ok_of (by decide)) (by unfold codeSegmentReturnable; decide) (ok_of (by decide)) (ok_of (by decide))
      (ok_of (by decide)) (by unfold returnAddressOk; decide), by decide, stop_of (by decide)⟩, by decide⟩

/-- No shadow stack; SSP off its boundary; each of the three loads as the first that fails; a frame that is read; and one
whose linear return address does not match, which ends the return in #CP. -/
theorem witness_ShadowChecksOfSamePrivilegeReturn :
    let s := longSameShadow
    let load := Access.shadowRead false
    let odd := shadowed longSame 0x1000 [0x2000, 0xFFFFFFFF80001001, 0x38, 0x1019]
    shadowUser { s with cpl := 3#2 } = true ∧ shadowUser s = false ∧ shadowStackEnabled longSame longSame.cpl = false
    ∧ (shadowStackEnabled { s with ssp := 0x1004#64 } 0#2 = true ∧ (0x1004#64).toNat % 8 ≠ 0)
    ∧ shstkLoad8 (faulting s load 0x1017 0x1017) 0x1010#64 = .error (.exc (.pf 3#32 0x1017#64))
    ∧ (shstkLoad8 (faulting s load 0x1000 0x100F) 0x1010#64 = .ok 0x38#64
      ∧ shstkLoad8 (faulting s load 0x1000 0x100F) 0x1008#64 = .error (.exc (.pf 3#32 0x1008#64)))
    ∧ (shstkLoad8 (faulting s load 0x1000 0x1007) 0x1010#64 = .ok 0x38#64
      ∧ shstkLoad8 (faulting s load 0x1000 0x1007) 0x1008#64 = .ok 0xFFFFFFFF80001000#64
      ∧ shstkLoad8 (faulting s load 0x1000 0x1007) 0x1000#64 = .error (.exc (.pf 3#32 0x1000#64)))
    ∧ (shadowStackEnabled s 0#2 = true ∧ s.ssp.toNat % 8 = 0 ∧ shstkLoad8 s (s.ssp + 16#64) = .ok 0x38#64
      ∧ shstkLoad8 s (s.ssp + 8#64) = .ok 0xFFFFFFFF80001000#64 ∧ shstkLoad8 s s.ssp = .ok 0x2000#64)
    ∧ (reachesShadowChecks .w64 odd 0xFFFFFFFF80001000#64 0x38#16 (desc 0x38) ∧ selRpl 0x38#16 = odd.cpl
      ∧ shadowSameChecks odd 0x38#16 (seg 0x38) 0xFFFFFFFF80001000#64 = .error (.exc .cp)) :=
  ⟨rfl, rfl, by decide, by decide, stop_of (by decide), ⟨ok_of (by decide), stop_of (by decide)⟩,
    ⟨ok_of (by decide), ok_of (by decide), stop_of (by decide)⟩,
    ⟨by decide, by decide, ok_of (by decide), ok_of (by decide), ok_of (by decide)⟩,
    ⟨reaches_of (w := 0x38#64) (fl := 2#64) (sp := 0xFFFF800000020000#64) (ss := 0#64) (newSS := ⟨nullSeg 0 0#16, none⟩)
      rfl (fun _ => rfl) (by decide) (by decide) rfl (ok_of (by decide)) (ok_of (by decide)) (ok_of (by decide))
      (by decide) (ok_of (by decide)) (by unfold codeSegmentReturnable; decide) (ok_of (by decide)) (ok_of (by decide))
      rfl (by unfold returnAddressOk; decide), by decide, stop_of (by decide)⟩⟩

theorem witness_SspRangeAndLinearReturnAddress :
    (longSame.eferLMA = true ∧ (seg 0x38).L = true) ∧ ¬ (longSame.eferLMA = true ∧ (seg 8).L = true) := by decide

/-- A token that matches, and one that does not. -/
theorem witness_TokenIsFreedExactlyWhenItMatches :
    toV86Shadow.mem.wf = true ∧ toV86Shadow.translation = []
    ∧ loadV toV86Shadow (.shadowRead (shadowUser toV86Shadow)) 0x5000#64 8 = .ok (0x5000#64 ||| 1#64)
    ∧ (loadV toV86Shadow (.shadowRead (shadowUser toV86Shadow)) 0x5008#64 8 = .ok 0#64
      ∧ 0#64 ≠ 0x5008#64 ||| 1#64) :=
  ⟨by decide, rfl, ok_of (by decide), ok_of (by decide), by decide⟩

/-- A clear accessed bit that is written, one whose write page-faults, and one that is set; a return whose write for CS
page-faults, and one whose write for SS does after that for CS is made. -/
theorem witness_AccessedBitIsSetByALoad :
    let u := faulting ring0 .supervisorWrite 0 0xFFFFFFFF
    let noCs := faulting unmarked .supervisorWrite 0x1001D 0x1001D
    let noSs := faulting unmarked .supervisorWrite 0x10025 0x10025
    let marked := { noSs with mem := noSs.mem.write 0x1001D 0xFB#8 }
    let newCS := segFromDescriptor 0x1B#16 0x00CFFA000000FFFF#64
    (ring0.params.descAccessedWriteback = true ∧ (0x00CF9A000000FFFF#64).getLsbD 40 = false
      ∧ translate ring0 .supervisorWrite (descriptorAddr ring0 8#16 + 5#64) = .ok 0x1000D#64)
    ∧ (u.params.descAccessedWriteback = true ∧ translate u .supervisorWrite (descriptorAddr u 8#16 + 5#64)
      = .error (.exc (.pf 3#32 0x1000D#64)))
    ∧ ¬ (ring0.params.descAccessedWriteback = true ∧ (desc 8).getLsbD 40 = false)
    ∧ (reachesShadowChecks .w32 noCs 0x401000#64 0x1B#16 0x00CFFA000000FFFF#64
      ∧ shadowChecks noCs 0x1B#16 newCS 0x401000#64 = .ok ⟨0#64, none⟩
      ∧ markAccessed noCs (loadSegment noCs 0x1B#16 0x00CFFA000000FFFF#64).mark = .error (.exc (.pf 3#32 0x1001D#64)))
    ∧ (reachesShadowChecks .w32 noSs 0x401000#64 0x1B#16 0x00CFFA000000FFFF#64
      ∧ shadowChecks noSs 0x1B#16 newCS 0x401000#64 = .ok ⟨0#64, none⟩
      ∧ markAccessed noSs (loadSegment noSs 0x1B#16 0x00CFFA000000FFFF#64).mark = .ok marked
      ∧ noSs.cpl < selRpl 0x1B#16 ∧ popAt noSs .w32 3 = .ok 0x12FFF0#64 ∧ popAt noSs .w32 4 = .ok 0x23#64
      ∧ returnSSCheck noSs 0x23#16 3#2 newCS = .ok (loadSegment noSs 0x23#16 0x00CFF2000000FFFF#64)
      ∧ markAccessed marked (loadSegment noSs 0x23#16 0x00CFF2000000FFFF#64).mark
        = .error (.exc (.pf 3#32 0x10025#64))) :=
  ⟨⟨rfl, by decide, ok_of (by decide)⟩, ⟨rfl, stop_of (by decide)⟩, by decide,
    ⟨reaches_of (w := 0x1B#64) (fl := 0x3202#64) (sp := 0x12FFF0#64) (ss := 0x23#64)
      (newSS := loadSegment unmarked 0x23#16 0x00CFF2000000FFFF#64) rfl (fun h => nomatch h) (by decide) (by decide) rfl
      (ok_of (by decide)) (ok_of (by decide)) (ok_of (by decide)) (by decide) (ok_of (by decide))
      (by unfold codeSegmentReturnable; decide) (ok_of (by decide)) (ok_of (by decide)) (ok_of (by decide))
      (by unfold returnAddressOk; decide), ok_of (by decide), stop_of (by decide)⟩,
    ⟨reaches_of (w := 0x1B#64) (fl := 0x3202#64) (sp := 0x12FFF0#64) (ss := 0x23#64)
      (newSS := loadSegment unmarked 0x23#16 0x00CFF2000000FFFF#64) rfl (fun h => nomatch h) (by decide) (by decide) rfl
      (ok_of (by decide)) (ok_of (by decide)) (ok_of (by decide)) (by decide) (ok_of (by decide))
      (by unfold codeSegmentReturnable; decide) (ok_of (by decide)) (ok_of (by decide)) (ok_of (by decide))
      (by unfold returnAddressOk; decide), ok_of (by decide), ok_of (by decide), by decide, ok_of (by decide),
      ok_of (by decide), ok_of (by decide), stop_of (by decide)⟩⟩

theorem witness_StepKeepsTheInvariant : Inv real = true ∧ ∃ t, step real = .next t := by
  obtain ⟨t, h, -⟩ := next_of test_iret_real
  exact ⟨by decide, t, h⟩

end Sys2Proof.Tests
end

section
/-! PROOFS. Task returns (42_iret_protected.md R163, R164): when the back link passes its checks, when `SwitchTasks`
answers, and what an execution then does. -/

namespace Sys2Proof.Machine

/-- `TaskLinkCheck` passes exactly on a descriptor that meets its condition (42 R164). -/
theorem taskLinkCheck_ok {s : State} {link : Sel} {u : Unit} :
    taskLinkCheck s link = .ok u ↔
      ∃ d, loadV s .supervisorRead (tssDescriptorAddr s link) 8 = .ok d ∧ taskLinkOk s link d := by
  unfold taskLinkCheck taskLinkOk
  simp only [check_bind_ok, require_ok, descIsTss_iff, Bool.not_eq_true', decide_eq_true_eq]
  constructor
  · rintro ⟨_, hlocal, _, hlimit, d, hd, _, htss, hbusy⟩
    exact ⟨d, hd, hlocal, hlimit, htss, hbusy⟩
  · rintro ⟨d, hd, hlocal, hlimit, htss, hbusy⟩
    exact ⟨(), hlocal, (), hlimit, d, hd, (), htss, hbusy⟩

/-- The back link is the low half-word at the base of the current TSS, once its descriptor passes the checks (42 R163,
R164). -/
theorem checkedLink_ok {s : State} {sel : Sel} :
    checkedLink s = .ok sel ↔ ∃ link d, sel = link.setWidth 16 ∧ loadV s .supervisorRead s.tr.base 2 = .ok link
      ∧ loadV s .supervisorRead (tssDescriptorAddr s sel) 8 = .ok d ∧ taskLinkOk s sel d := by
  unfold checkedLink readLink
  simp only [check_bind_ok, taskLinkCheck_ok]
  constructor
  · rintro ⟨_, ⟨link, hlink, hsel⟩, _, ⟨d, hd, hok⟩, h⟩
    cases hsel
    cases h
    exact ⟨link, d, rfl, hlink, hd, hok⟩
  · rintro ⟨link, d, rfl, hlink, hd, hok⟩
    exact ⟨_, ⟨link, hlink, rfl⟩, (), ⟨d, hd, hok⟩, rfl⟩

/-- `SwitchTasks` gives no answer exactly when no rule is for the back link and the return address. -/
theorem lookupTask_none {link : Sel} {ip : Word} {rules : List TaskRule} :
    lookupTask link ip rules = none ↔ ∀ r ∈ rules, ¬ (r.link = link ∧ r.returnIp = ip) := by
  induction rules with
  | nil => simp [lookupTask]
  | cons r rules ih =>
    rw [lookupTask, List.forall_mem_cons]
    by_cases hr : r.link = link ∧ r.returnIp = ip
    · simp [hr]
    · rw [if_neg hr, ih, and_iff_right hr]

/-- With NT = 1 in protected mode an execution is a task return (40_iret_common.md R113, R114; 42 R161). -/
theorem exec_eq_taskReturn {i : Instr} {n : OpSize} {s : State} (hi : i.opSize = some n) (hn : n ≠ .w64)
    (hv : s.vmxNonRoot = false) (hm : modeOf s = .protectedMode) (ht : s.eflags.NT = true) :
    exec i s = taskReturn i.length s := by
  rw [exec_eq hi, if_neg fun h => hn h.1]
  unfold iretExec
  rw [hv, dispatch_eq, hm, ht]
  rfl

/-- A task return with a good back link does what `SwitchTasks` answers for it and the return address. -/
theorem taskReturn_of_checkedLink {len : Nat} {s : State} {link : Sel} (h : checkedLink s = .ok link) :
    taskReturn len s = switchTo s (lookupTask link (s.rip + BitVec.ofNat 64 len) s.tasks) := by
  unfold taskReturn
  rw [h]
  rfl

/-- Settles O25: the back link passes its checks, the lookup in `SwitchTasks` finds no rule, and a switch without an
answer is refused. -/
theorem taskReturnRefusedWithoutSwitchTasks : Obligations.TaskReturnRefusedWithoutSwitchTasks := by
  intro i n s link d hi hn hv hm ht hlink hd hok hrules
  have hchecked : checkedLink s = .ok (link.setWidth 16) := checkedLink_ok.mpr ⟨link, d, rfl, hlink, hd, hok⟩
  rw [exec_eq_taskReturn hi hn hv hm ht, taskReturn_of_checkedLink hchecked, lookupTask_none.mpr hrules]
  rfl

end Sys2Proof.Machine
end

section
/-! PROOFS. What every execution leaves alone (10_state.md R20, R44; 44 R221), and the invariant of the machine, which
every step keeps (R36, R219). -/

namespace Sys2Proof.Machine

/-! ### What an execution that completes went through -/

/-- A step that completes is the execution of an instruction (40_iret_common.md R126). -/
theorem step_next {s t : State} (h : step s = .next t) : ∃ i, exec i s = .next t := by
  unfold step at h
  split at h
  · exact ⟨_, h⟩
  · cases h

/-- An execution that completes has an operand size: LOCK never completes (30_encoding.md R96). -/
theorem exec_next_opSize {i : Instr} {s t : State} (h : exec i s = .next t) : ∃ n, i.opSize = some n := by
  cases i with
  | lockIret p =>
    have hud : execLockIret p s = .next t := h
    unfold execLockIret at hud
    split at hud
    · cases hud
    · cases hud
  | _ => exact ⟨_, rfl⟩

/-- Where NT = 1 in protected mode, an execution that completes is a task return (42 R160). -/
theorem exec_next_taskReturn {i : Instr} {s t : State} (hn : takesTaskReturn s = true) (h : exec i s = .next t) :
    taskReturn i.length s = .next t := by
  obtain ⟨n, hi⟩ := exec_next_opSize h
  unfold takesTaskReturn at hn
  obtain ⟨hd, ht⟩ := Bool.and_eq_true_iff.mp hn
  rw [exec_eq hi] at h
  split at h
  · cases h
  · unfold iretExec at h
    split at h
    · cases h
    · simpa only [of_decide_eq_true hd, ht, if_true] using h

/-- An answer of `SwitchTasks` is the result of one of its rules. -/
theorem lookupTask_some {link : Sel} {ip : Word} {rules : List TaskRule} {res : SwitchResult}
    (h : lookupTask link ip rules = some res) : ∃ r ∈ rules, r.result = res := by
  induction rules with
  | nil => cases h
  | cons r rules ih =>
    unfold lookupTask at h
    split at h
    · exact ⟨r, List.mem_cons_self, Option.some.inj h⟩
    · obtain ⟨q, hq, hres⟩ := ih h
      exact ⟨q, List.mem_cons_of_mem r hq, hres⟩

/-- A task return that completes retires in the task that a rule of `SwitchTasks` gives, where it has stored one byte
more, the busy bit's (42 R163). -/
theorem taskReturn_next_enters {len : Nat} {s t : State} (h : taskReturn len s = .next t) :
    ∃ r ∈ s.tasks, ∃ image u l, r.result = .switched image ∧ storesOnly (enterTask s image) u l ∧ t = retire u := by
  obtain ⟨link, image, u, -, hlookup, hbusy, -, rfl⟩ := taskReturn_next h
  obtain ⟨r, hr, hres⟩ := lookupTask_some hlookup
  unfold clearBusy at hbusy
  exact ⟨r, hr, image, u, _, hres, modifyByte_storesOnly hbusy, rfl⟩

/-! ### What an execution leaves alone -/

theorem sameControl_refl (s : State) : sameControl s s :=
  ⟨rfl, rfl, rfl, rfl, rfl, rfl, rfl, rfl, rfl, rfl, rfl, rfl, rfl⟩

theorem sameTask_refl (s : State) : sameTask s s :=
  ⟨rfl, rfl, rfl, rfl⟩

/-- No path but a task return changes a general register, a control bit, CR3, LDTR or TR: each Commit is a record update
that names none of these fields. -/
theorem pathOf_sameSystem {n : OpSize} {s t : State} (h : pathOf n s = .ok t) : sameControl s t ∧ sameTask s t := by
  obtain ⟨f, -, ⟨-, -, rfl⟩ | ⟨-, -, -, rfl⟩ | ⟨-, -, v, m, -, -, rfl⟩ | ⟨-, -, -, c, -, hreturn⟩⟩ := pathOf_cases h
  · exact ⟨sameControl_refl s, sameTask_refl s⟩
  · exact ⟨sameControl_refl s, sameTask_refl s⟩
  · exact ⟨sameControl_refl s, sameTask_refl s⟩
  · obtain ⟨-, st, q, sh, m, -, -, -, -, rfl⟩ | ⟨-, -, sh, m, -, -, rfl⟩ | ⟨-, -, st, q, sh, m, -, -, -, -, rfl⟩ :=
      hreturn
    · exact ⟨sameControl_refl s, sameTask_refl s⟩
    · exact ⟨sameControl_refl s, sameTask_refl s⟩
    · exact ⟨sameControl_refl s, sameTask_refl s⟩

/-- A task return keeps the general registers and the control bits: a `TaskImage` holds none of them (log 23, 26). -/
theorem taskReturn_sameControl {len : Nat} {s t : State} (h : taskReturn len s = .next t) : sameControl s t := by
  obtain ⟨-, -, image, u, l, -, ⟨m, rfl, -⟩, rfl⟩ := taskReturn_next_enters h
  exact sameControl_refl s

/-- Settles O47: an execution that completes is a task return or the path of its mode, and neither writes these
registers. -/
theorem systemRegistersAreLeftAlone : Obligations.SystemRegistersAreLeftAlone := by
  intro i s t h
  cases hn : takesTaskReturn s with
  | true => exact ⟨taskReturn_sameControl (exec_next_taskReturn hn h), fun hf => nomatch hf⟩
  | false =>
    obtain ⟨n, hi⟩ := exec_next_opSize h
    obtain ⟨u, hu, rfl⟩ := exec_next hi hn h
    obtain ⟨hcontrol, htask⟩ := pathOf_sameSystem hu
    exact ⟨hcontrol, fun _ => htask⟩

/-! ### The canonical form of memory -/

theorem storesOnly_mem_wf {s u : State} {l : List (Access × Word)} (h : storesOnly s u l) (hw : s.mem.wf = true) :
    u.mem.wf = true := by
  obtain ⟨m, rfl, hm, -⟩ := h
  exact hm hw

/-- A token access keeps the canonical form. -/
theorem freeToken_mem_wf {s : State} {token : Option Word} {m : Memory}
    (h : freeToken s token = .ok { s with mem := m }) (hw : s.mem.wf = true) : m.wf = true :=
  storesOnly_mem_wf (u := { s with mem := m }) (freeToken_storesOnly h) hw

/-- The stores of a Commit keep the canonical form. -/
theorem commitStores_mem_wf {s : State} {cs ss token : Option Word} {m : Memory}
    (h : commitStores s cs ss token = .ok { s with mem := m }) (hw : s.mem.wf = true) : m.wf = true :=
  storesOnly_mem_wf (u := { s with mem := m }) (commitStores_storesOnly h) hw

/-- A path stores through the token access and the accessed bits alone, which keep the canonical form. -/
theorem pathOf_mem_wf {n : OpSize} {s t : State} (h : pathOf n s = .ok t) (hw : s.mem.wf = true) :
    t.mem.wf = true := by
  obtain ⟨f, -, ⟨-, -, rfl⟩ | ⟨-, -, -, rfl⟩ | ⟨-, -, v, m, -, hm, rfl⟩ | ⟨-, -, -, c, -, hreturn⟩⟩ := pathOf_cases h
  · exact hw
  · exact hw
  · exact freeToken_mem_wf hm hw
  · obtain ⟨-, st, q, sh, m, -, -, -, hm, rfl⟩ | ⟨-, -, sh, m, -, hm, rfl⟩ | ⟨-, -, st, q, sh, m, -, -, -, hm, rfl⟩ :=
      hreturn
    · exact commitStores_mem_wf hm hw
    · exact commitStores_mem_wf hm hw
    · exact commitStores_mem_wf hm hw

/-! ### CPL and the mode -/

/-- The CPL a state must have, by the block the dispatch enters: protected and IA-32e mode ask the same. -/
theorem cplMatchesMode_eq_dispatch (s : State) : cplMatchesMode s = match dispatch s with
    | .realAddress => s.cpl == 0#2
    | .fromV86 => s.cpl == 3#2
    | .protectedMode | .ia32e => s.cpl == selRpl s.cs.sel := by
  rw [dispatch_eq]
  unfold cplMatchesMode
  cases modeOf s <;> rfl

/-- Between states of real-address or of virtual-8086 mode, only CPL counts. -/
theorem cplMatchesMode_congr {s t : State} (hs : dispatch s = .realAddress ∨ dispatch s = .fromV86)
    (hd : dispatch t = dispatch s) (h : t.cpl = s.cpl) : cplMatchesMode t = cplMatchesMode s := by
  rw [cplMatchesMode_eq_dispatch, cplMatchesMode_eq_dispatch, hd, h]
  obtain hs | hs := hs <;> rw [hs]

/-- In virtual-8086 mode CPL matches when it is 3 (10_state.md R36). -/
theorem cplMatchesMode_of_fromV86 {s : State} (hd : dispatch s = .fromV86) (h : s.cpl = 3#2) :
    cplMatchesMode s = true := by
  rw [cplMatchesMode_eq_dispatch, hd, h]
  rfl

/-- Outside real-address and virtual-8086 mode CPL matches when it is the RPL of CS (44 R219). -/
theorem cplMatchesMode_of_rpl {s : State} (hreal : dispatch s ≠ .realAddress) (hv86 : dispatch s ≠ .fromV86)
    (h : s.cpl = selRpl s.cs.sel) : cplMatchesMode s = true := by
  rw [cplMatchesMode_eq_dispatch]
  cases hd : dispatch s with
  | realAddress => exact absurd hd hreal
  | fromV86 => exact absurd hd hv86
  | protectedMode => exact beq_iff_eq.mpr h
  | ia32e => exact beq_iff_eq.mpr h

/-- The dispatch reads two control bits, which no execution changes, and EFLAGS.VM (40_iret_common.md R114). -/
theorem dispatch_of_sameControl {s t : State} (h : sameControl s t) (hvm : t.eflags.VM = s.eflags.VM) :
    dispatch t = dispatch s := by
  obtain ⟨-, hpe, -, -, -, hlma, -⟩ := h
  unfold dispatch
  rw [hpe, hlma, hvm]

/-- Legacy protected mode: the dispatch gets there with CR0.PE = 1, LMA = 0 and VM = 0. -/
theorem dispatch_eq_protectedMode {s : State} :
    dispatch s = .protectedMode ↔ s.cr0PE = true ∧ s.eferLMA = false ∧ s.eflags.VM = false := by
  unfold dispatch
  cases s.cr0PE <;> cases s.eferLMA <;> cases s.eflags.VM <;> decide

/-- Legacy mode with CR0.PE = 1 is virtual-8086 or protected mode by EFLAGS.VM. -/
theorem dispatch_of_legacy {s : State} (hpe : s.cr0PE = true) (hlma : s.eferLMA = false) :
    dispatch s = if s.eflags.VM then .fromV86 else .protectedMode := by
  unfold dispatch
  rw [hpe, hlma]
  rfl

@[simp] theorem writeFlagsReal_VM (f img : Eflags) (n : OpSize) : (writeFlagsReal f img n).VM = f.VM := by
  unfold writeFlagsReal
  split <;> rfl

@[simp] theorem writeFlagsV86_VM (f img : Eflags) (n : OpSize) : (writeFlagsV86 f img n).VM = f.VM := by
  unfold writeFlagsV86
  split <;> rfl

@[simp] theorem writeFlagsProt_VM (f img : Eflags) (n : OpSize) (cpl : BitVec 2) :
    (writeFlagsProt f img n cpl).VM = f.VM := by
  unfold writeFlagsProt
  cases n.wideImage <;> by_cases hi : cpl ≤ f.IOPL <;> by_cases hc : cpl = 0#2 <;> simp only [hi, hc] <;> rfl

/-- `ReturnCSCheck` passes on a descriptor that passes its rows, and loads the segment from it (44 R210). -/
theorem returnCSCheck_ok {s : State} {sel : Sel} {c : LoadedSeg} :
    returnCSCheck s sel = .ok c ↔ ∃ d, selNull sel = false ∧ readDescriptor s sel = .ok d
      ∧ codeDescriptorRows s sel d = true ∧ descPresent d = true ∧ c = loadSegment s sel d := by
  unfold returnCSCheck
  simp only [check_bind_ok, require_ok, Bool.not_eq_true']
  constructor
  · rintro ⟨_, hnull, d, hd, _, hrows, _, hpresent, h⟩
    cases h
    exact ⟨d, hnull, hd, hrows, hpresent, rfl⟩
  · rintro ⟨d, hnull, hd, hrows, hpresent, rfl⟩
    exact ⟨(), hnull, d, hd, (), hrows, (), hpresent, rfl⟩

/-- The segment loaded into CS has the selector that was checked. -/
theorem returnCSCheck_sel {s : State} {sel : Sel} {c : LoadedSeg} (h : returnCSCheck s sel = .ok c) :
    c.seg.sel = sel := by
  obtain ⟨d, -, -, -, -, rfl⟩ := returnCSCheck_ok.mp h
  rfl

/-- A return never goes to an inner level (44 R210 row 4). -/
theorem returnCSCheck_cpl_le {s : State} {sel : Sel} {c : LoadedSeg} (h : returnCSCheck s sel = .ok c) :
    s.cpl ≤ selRpl sel := by
  obtain ⟨d, -, -, hrows, -, -⟩ := returnCSCheck_ok.mp h
  simp only [codeDescriptorRows, Bool.and_eq_true, decide_eq_true_eq] at hrows
  obtain ⟨⟨⟨⟨-, hcpl⟩, -⟩, -⟩, -⟩ := hrows
  exact hcpl

/-- The RPL of the CS that a return to the same level loads is CPL (44 R210 row 4, R219). -/
theorem returnCSCheck_rpl_same {s : State} {sel : Sel} {c : LoadedSeg} (h : returnCSCheck s sel = .ok c)
    (hlt : ¬ s.cpl < selRpl sel) : s.cpl = selRpl c.seg.sel := by
  rw [returnCSCheck_sel h]
  exact BitVec.le_antisymm (returnCSCheck_cpl_le h) (BitVec.not_lt.mp hlt)

/-- What a path makes of EFLAGS.VM and CPL: real-address and virtual-8086 mode keep both, a return to virtual-8086 mode
sets VM and CPL 3, and a protected-style return keeps VM and ends at the RPL of the new CS. -/
theorem pathOf_privilege {n : OpSize} {s t : State} (h : pathOf n s = .ok t) :
    ((dispatch s = .realAddress ∨ dispatch s = .fromV86) ∧ t.eflags.VM = s.eflags.VM ∧ t.cpl = s.cpl)
    ∨ (dispatch s = .protectedMode ∧ t.eflags.VM = true ∧ t.cpl = 3#2)
    ∨ (dispatch s ≠ .realAddress ∧ dispatch s ≠ .fromV86 ∧ t.eflags.VM = s.eflags.VM
      ∧ t.cpl = selRpl t.cs.sel) := by
  obtain ⟨f, -, ⟨hm, -, rfl⟩ | ⟨hm, -, -, rfl⟩ | ⟨hm, hv, v, m, -, -, rfl⟩ | ⟨hreal, hv86, -, c, hc, hreturn⟩⟩ :=
    pathOf_cases h
  · exact .inl ⟨.inl (by rw [dispatch_eq, hm]), writeFlagsReal_VM _ _ _, rfl⟩
  · exact .inl ⟨.inr (by rw [dispatch_eq, hm]), writeFlagsV86_VM _ _ _, rfl⟩
  · exact .inr (.inl ⟨by rw [dispatch_eq, hm], (Bool.and_eq_true_iff.mp hv).1, rfl⟩)
  · have same : ¬ s.cpl < selRpl f.cs → s.cpl = selRpl c.seg.sel := returnCSCheck_rpl_same hc
    refine .inr (.inr ⟨hreal, hv86, ?_⟩)
    obtain ⟨-, st, q, sh, m, -, -, -, -, rfl⟩ | ⟨hlt, -, sh, m, -, -, rfl⟩ | ⟨hlt, -, st, q, sh, m, -, -, -, -, rfl⟩ :=
      hreturn
    · exact ⟨writeFlagsProt_VM _ _ _ _, congrArg selRpl (returnCSCheck_sel hc).symm⟩
    · exact ⟨writeFlagsProt_VM _ _ _ _, same hlt⟩
    · exact ⟨writeFlagsProt_VM _ _ _ _, same hlt⟩

/-- A path ends with a CPL that fits the mode it ends in. -/
theorem pathOf_cplMatchesMode {n : OpSize} {s t : State} (h : pathOf n s = .ok t) (hs : cplMatchesMode s = true) :
    cplMatchesMode t = true := by
  have hcontrol : sameControl s t := (pathOf_sameSystem h).1
  obtain ⟨hd, hvm, hcpl⟩ | ⟨hd, hvm, hcpl⟩ | ⟨hreal, hv86, hvm, hcpl⟩ := pathOf_privilege h
  · rw [cplMatchesMode_congr hd (dispatch_of_sameControl hcontrol hvm) hcpl]
    exact hs
  · obtain ⟨hpe, hlma, -⟩ := dispatch_eq_protectedMode.mp hd
    obtain ⟨-, hpe', -, -, -, hlma', -⟩ := hcontrol
    refine cplMatchesMode_of_fromV86 ?_ hcpl
    rw [dispatch_of_legacy (hpe'.trans hpe) (hlma'.trans hlma), hvm, if_pos rfl]
  · have hd : dispatch t = dispatch s := dispatch_of_sameControl hcontrol hvm
    exact cplMatchesMode_of_rpl (hd ▸ hreal) (hd ▸ hv86) hcpl

/-- The task a well-formed rule switches to is well-formed. -/
theorem taskImageWf_of_rule {r : TaskRule} {image : TaskImage} (hr : taskRuleWf r = true)
    (h : r.result = .switched image) : taskImageWf image = true := by
  unfold taskRuleWf at hr
  rw [h] at hr
  exact hr

/-- In legacy mode with CR0.PE = 1 a well-formed task has the CPL of the mode its EFLAGS select. -/
theorem enterTask_cplMatchesMode {s : State} {image : TaskImage} (hpe : s.cr0PE = true) (hlma : s.eferLMA = false)
    (h : taskImageWf image = true) : cplMatchesMode (enterTask s image) = true := by
  have hd : dispatch (enterTask s image) = if image.eflags.VM then .fromV86 else .protectedMode :=
    dispatch_of_legacy hpe hlma
  unfold taskImageWf at h
  rw [cplMatchesMode_eq_dispatch, hd]
  cases hvm : image.eflags.VM with
  | true => simpa [hvm] using h
  | false => simpa [hvm] using h

/-! ### The invariant -/

/-- The invariant clause by clause. -/
theorem inv_iff {s : State} : Inv s = true ↔ s.mem.wf = true ∧ cplMatchesMode s = true
    ∧ (s.params.cetSupported || !s.cr4CET) = true ∧ (s.params.ia32eSupported || !s.eferLMA) = true
    ∧ s.tasks.all taskRuleWf = true := by
  unfold Inv
  simp only [Bool.and_eq_true, and_assoc]

/-- The end of a Commit touches nothing the invariant reads. -/
@[simp] theorem inv_retire (s : State) : Inv (retire s) = Inv s := rfl

/-- Only memory and CPL have to be looked at: the rest of the invariant is about what no execution changes. -/
theorem inv_of_sameControl {s t : State} (hs : Inv s = true) (h : sameControl s t) (hmem : t.mem.wf = true)
    (hcpl : cplMatchesMode t = true) : Inv t = true := by
  obtain ⟨-, -, hcet, hia32e, htasks⟩ := inv_iff.mp hs
  obtain ⟨-, -, -, h4cet, -, hlma, -, -, -, -, -, hparams, htasks'⟩ := h
  refine inv_iff.mpr ⟨hmem, hcpl, ?_, ?_, ?_⟩
  · rw [hparams, h4cet]; exact hcet
  · rw [hparams, hlma]; exact hia32e
  · rw [htasks']; exact htasks

/-- A path keeps the invariant. -/
theorem pathOf_inv {n : OpSize} {s t : State} (hs : Inv s = true) (h : pathOf n s = .ok t) : Inv t = true := by
  obtain ⟨hmem, hcpl, -⟩ := inv_iff.mp hs
  exact inv_of_sameControl hs (pathOf_sameSystem h).1 (pathOf_mem_wf h hmem) (pathOf_cplMatchesMode h hcpl)

/-- A task return keeps the invariant: `SwitchTasks` answers with a well-formed task, and its stores keep the form of
memory. -/
theorem taskReturn_inv {len : Nat} {s t : State} (hn : takesTaskReturn s = true) (hs : Inv s = true)
    (h : taskReturn len s = .next t) : Inv t = true := by
  obtain ⟨hmem, -, -, -, htasks⟩ := inv_iff.mp hs
  obtain ⟨hpe, hlma, -⟩ := dispatch_eq_protectedMode.mp (of_decide_eq_true (Bool.and_eq_true_iff.mp hn).1)
  have hcontrol := taskReturn_sameControl h
  obtain ⟨r, hr, image, u, l, hres, hstores, rfl⟩ := taskReturn_next_enters h
  have himage : taskImageWf image = true := taskImageWf_of_rule (List.all_eq_true.mp htasks r hr) hres
  have hmem' : u.mem.wf = true := storesOnly_mem_wf hstores (storeCells_wf image.stores hmem)
  obtain ⟨m, rfl, -⟩ := hstores
  exact inv_of_sameControl hs hcontrol hmem' (enterTask_cplMatchesMode hpe hlma himage)

/-- Every execution that completes keeps the invariant. -/
theorem exec_inv {i : Instr} {s t : State} (hs : Inv s = true) (h : exec i s = .next t) : Inv t = true := by
  cases hn : takesTaskReturn s with
  | true => exact taskReturn_inv hn hs (exec_next_taskReturn hn h)
  | false =>
    obtain ⟨n, hi⟩ := exec_next_opSize h
    obtain ⟨u, hu, rfl⟩ := exec_next hi hn h
    rw [inv_retire]
    exact pathOf_inv hs hu

/-- Settles O59: a step that completes executes an instruction, and every execution keeps the invariant. -/
theorem stepKeepsTheInvariant : Obligations.StepKeepsTheInvariant := by
  intro s t hs h
  obtain ⟨i, hi⟩ := step_next h
  exact exec_inv hs hi

/-- Settles O60: memory after reset lists nothing, CPL is 0 in real-address mode, CET and IA-32e mode are off, and
`SwitchTasks` is absent (log 1, 2, 3). -/
theorem resetSatisfiesTheInvariant : Obligations.ResetSatisfiesTheInvariant :=
  inv_iff.mpr ⟨reset_mem_wf, rfl, rfl, rfl, rfl⟩

end Sys2Proof.Machine
end


section
/-! PROOFS. Memory (20_memory.md): little-endian reads through `Translate`, the offsets of the stack items, and the
descriptor tables. -/

namespace Sys2Proof.Machine

/-! ### Descriptor tables -/

/-- A condition that fails is the exception of the sequence; one that holds is followed by the rest. -/
theorem require_bind {α : Type} (b : Bool) (x : Exception) (g : Unit → Check α) :
    (require b x >>= g) = if b = true then g () else .error (.exc x) := by
  cases b <;> rfl

/-- What a check of a flag `b` that only counts under `a` asks. -/
theorem not_or_eq_true_iff {a b : Bool} : (!a || b) = true ↔ ¬ (a = true ∧ b = false) := by
  cases a <;> cases b <;> decide

/-- The three conditions under which a selector has a descriptor: its table is valid, the limit covers the eight bytes,
and their address is canonical in IA-32e mode (20_memory.md R70). -/
def descriptorReachable (s : State) (sel : Sel) : Prop :=
  ¬ (selTI sel = true ∧ s.ldtr.valid = false) ∧ 8 * selIndex sel + 7 ≤ tableLimit s sel
  ∧ ¬ (s.eferLMA = true ∧ canonical s (descriptorAddr s sel) = false)

/-- A reachable descriptor is read from its table. -/
theorem readDescriptor_of_reachable {s : State} {sel : Sel} (h : descriptorReachable s sel) :
    readDescriptor s sel = loadV s .supervisorRead (descriptorAddr s sel) 8 := by
  obtain ⟨htable, hlimit, hcanonical⟩ := h
  unfold readDescriptor
  rw [not_or_eq_true_iff.mpr htable, decide_eq_true hlimit, not_or_eq_true_iff.mpr hcanonical]
  rfl

/-- For any other selector the read is `#GP(selector)`. -/
theorem readDescriptor_of_not_reachable {s : State} {sel : Sel} (h : ¬ descriptorReachable s sel) :
    readDescriptor s sel = .error (.exc (gpSel sel)) := by
  unfold readDescriptor
  simp only [require_bind, not_or_eq_true_iff, decide_eq_true_eq]
  split_ifs with htable hlimit hcanonical
  · rfl
  · rfl
  · exact absurd ⟨htable, hlimit, hcanonical⟩ h
  · rfl

/-- Settles O34: the selector's fields give the table, and the descriptor is reachable or not. -/
theorem descriptorLookupFollowsTheTables : Obligations.DescriptorLookupFollowsTheTables := by
  intro s sel index base limit address
  refine ⟨fun h => readDescriptor_of_not_reachable ?_, fun htable hlimit hcanonical =>
    readDescriptor_of_reachable ⟨htable, hlimit, fun ⟨hl, h⟩ => ?_⟩⟩
  · rintro ⟨htable, hlimit, hcanonical⟩
    obtain h | h | h := h
    · exact htable h
    · exact Nat.not_lt.mpr hlimit h
    · exact hcanonical h
  · exact Bool.false_ne_true (h.symm.trans (hcanonical hl))

/-! ### Little-endian reads -/

/-- One byte below a value of at most seven bytes. -/
theorem toNat_shiftLeft_or_byte {v : Word} (b : Byte) (h : v.toNat < 2 ^ 56) :
    ((v <<< 8) ||| b.setWidth 64).toNat = b.toNat + 256 * v.toNat := by
  have hb : b.toNat < 2 ^ 8 := b.isLt
  rw [BitVec.toNat_or, BitVec.toNat_shiftLeft, BitVec.toNat_setWidth, Nat.shiftLeft_eq,
    Nat.mod_eq_of_lt (by omega), Nat.mod_eq_of_lt (by omega : b.toNat < 2 ^ 64), Nat.mul_comm,
    ← Nat.two_pow_add_eq_or_of_lt hb]
  omega

/-- A read of one byte more is its first byte below the rest. -/
theorem loadV_succ {s : State} {acc : Access} {a v : Word} {b : Byte} {n : Nat} (hn : n < 8)
    (hb : loadByte s acc a = .ok b) (hv : loadV s acc (a + 1#64) n = .ok v) :
    ∃ w, loadV s acc a (n + 1) = .ok w ∧ w.toNat = b.toNat + 256 * v.toNat := by
  refine ⟨(v <<< 8) ||| b.setWidth 64, ?_, toNat_shiftLeft_or_byte b ?_⟩
  · unfold loadV
    rw [hb, check_ok_bind, hv, check_ok_bind]
  · exact lt_of_lt_of_le (loadV_lt (by omega) hv) (Nat.pow_le_pow_right (by decide) (by omega))

/-- The address one byte up, `k` bytes further on. -/
theorem add_one_add_ofNat (a : Word) (k : Nat) : a + 1#64 + BitVec.ofNat 64 k = a + BitVec.ofNat 64 (k + 1) := by
  rw [BitVec.add_assoc, ← BitVec.ofNat_add, Nat.add_comm]

/-- A read of at most eight bytes is the little-endian sum of them (20_memory.md R61). -/
theorem loadV_eq_sum {s : State} {acc : Access} {n : Nat} {a : Word} {b : Nat → Byte} (hn : n ≤ 8)
    (h : ∀ k, k < n → loadByte s acc (a + BitVec.ofNat 64 k) = .ok (b k)) :
    ∃ v, loadV s acc a n = .ok v ∧ v.toNat = ∑ k ∈ Finset.range n, (b k).toNat * 256 ^ k := by
  induction n generalizing a b with
  | zero => exact ⟨0#64, rfl, rfl⟩
  | succ n ih =>
    have hfirst : loadByte s acc a = .ok (b 0) := by simpa using h 0 (Nat.succ_pos n)
    obtain ⟨v, hv, hsum⟩ := ih (a := a + 1#64) (b := fun k => b (k + 1)) (by omega) fun k hk => by
      rw [add_one_add_ofNat]
      exact h (k + 1) (by omega)
    obtain ⟨w, hw, hval⟩ := loadV_succ (by omega) hfirst hv
    refine ⟨w, hw, ?_⟩
    rw [hval, hsum, Finset.sum_range_succ', Finset.mul_sum, Nat.add_comm, pow_zero, Nat.mul_one]
    refine congrArg (· + _) (Finset.sum_congr rfl fun k _ => ?_)
    ring

/-- The linear address of a byte, in numbers (20_memory.md R60; log 11). -/
theorem linearAddr_eq (s : State) (a : Word) :
    linearAddr s a = if s.cr0PE = true ∧ s.eferLMA = true then a else BitVec.ofNat 64 (a.toNat % 2 ^ 32) := by
  unfold linearAddr inIa32e
  simp only [Bool.and_eq_true]
  refine ite_congr rfl (fun _ => rfl) fun _ => BitVec.eq_of_toNat_eq ?_
  simp [lowPart]

/-- Without paging a byte is read at its linear address. -/
theorem loadByte_of_real {s : State} (acc : Access) (a : Word) (h : s.cr0PE = false) :
    loadByte s acc a = .ok (s.mem.read (linearAddr s a).toNat) := by
  unfold loadByte translate
  rw [h]
  rfl

/-- Elsewhere it is read where the first rule that covers its linear address and the access says (20_memory.md R71). -/
theorem loadByte_of_protected {s : State} (acc : Access) (a : Word) (h : s.cr0PE = true) :
    loadByte s acc a =
      match s.translation.find?
        (fun r => decide (r.access = acc ∧ r.first ≤ linearAddr s a ∧ linearAddr s a ≤ r.last)) with
      | none => .ok (s.mem.read (linearAddr s a).toNat)
      | some r => match r.result with
        | .physical base => .ok (s.mem.read (base + (linearAddr s a - r.first)).toNat)
        | .pageFault code => .error (.exc (.pf code (linearAddr s a))) := by
  unfold loadByte translate
  rw [h, if_pos rfl, lookupTranslation_find]
  cases s.translation.find? (fun r => decide (r.access = acc ∧ r.first ≤ linearAddr s a ∧ linearAddr s a ≤ r.last)) with
  | none => rfl
  | some r =>
    obtain ⟨_, _, _, result⟩ := r
    cases result with
    | physical base => rfl
    | pageFault code => rfl

/-- Settles O36: the sum by induction on the number of bytes, each byte by the first rule of `Translate`, and the
memory's own reads by its canonical form. -/
theorem readsAreLittleEndian : Obligations.ReadsAreLittleEndian := by
  intro s acc a
  refine ⟨fun n b hn h => loadV_eq_sum hn h, ?_, fun p hw =>
    ⟨fun b hb => Memory.read_listed hw hb, fun h => Memory.read_unlisted h⟩⟩
  intro linear
  have hlinear : linear = linearAddr s a := (linearAddr_eq s a).symm
  rw [hlinear]
  exact ⟨loadByte_of_real acc a, loadByte_of_protected acc a⟩

/-! ### The offsets of the stack items -/

/-- The low part of a word is its value modulo the width. -/
theorem lowPart_toNat (n : OpSize) (v : Word) : (lowPart n v).toNat = v.toNat % 2 ^ (8 * n.bytes) := by
  have hv : v.toNat < 2 ^ 64 := v.isLt
  cases n with
  | w16 | w32 => simp [lowPart, OpSize.bytes]; omega
  | w64 => exact (Nat.mod_eq_of_lt hv).symm

/-- The offset of an item wraps at the stack address size (20_memory.md R63). -/
theorem slotOffset_toNat (s : State) (n : OpSize) (k : Nat) :
    (slotOffset s n k).toNat = ((stackPointer s).toNat + k * n.bytes) % 2 ^ (8 * (stackAddrSize s).bytes) := by
  have hdvd : 2 ^ (8 * (stackAddrSize s).bytes) ∣ 2 ^ 64 :=
    Nat.pow_dvd_pow 2 (by cases stackAddrSize s <;> decide)
  unfold slotOffset
  rw [lowPart_toNat, BitVec.toNat_add, BitVec.toNat_ofNat, Nat.add_mod_mod, Nat.mod_mod_of_dvd _ hdvd]

theorem stackAddrSize_long64 {s : State} (h : modeOf s = .long64) : stackAddrSize s = .w64 := by
  unfold stackAddrSize
  rw [if_pos h]

theorem stackAddrSize_legacy {s : State} (h : modeOf s ≠ .long64) :
    stackAddrSize s = if s.ss.DB = true then .w32 else .w16 := by
  unfold stackAddrSize
  rw [if_neg h]

/-- Settles O37: the offset wraps at the stack address size, and the stack pointer is read at that size. -/
theorem stackOffsetsWrapAtTheStackAddressSize : Obligations.StackOffsetsWrapAtTheStackAddressSize := by
  intro s n k _
  refine ⟨rfl, fun hm => ?_, fun hm hdb => ?_, fun hm hdb => ?_⟩
  · have hsize : stackAddrSize s = .w64 := stackAddrSize_long64 hm
    rw [slotOffset_toNat, stackPointer, hsize]
    rfl
  · have hsize : stackAddrSize s = .w32 := by rw [stackAddrSize_legacy hm, if_pos hdb]
    rw [slotOffset_toNat, stackPointer, hsize, BitVec.toNat_setWidth_of_le (by decide)]
    rfl
  · have hsize : stackAddrSize s = .w16 := by rw [stackAddrSize_legacy hm, hdb]; rfl
    rw [slotOffset_toNat, stackPointer, hsize, BitVec.toNat_setWidth_of_le (by decide), BitVec.toNat_setWidth]
    exact Nat.mod_add_mod _ _ _

end Sys2Proof.Machine
end

section
/-! PROOFS. Alignment (20_memory.md R66): in an execution only the stack reads raise `#AC`, and only where
`AlignmentCheckApplies`. -/

namespace Sys2Proof.Machine

/-- A check that raises `#AC` only where alignment is checked. -/
def alignmentGuarded {α : Type} (s : State) (c : Check α) : Prop :=
  c = .error (.exc .ac) → alignmentCheckApplies s = true

/-! ### Sequences of checks -/

theorem alignmentGuarded_ok {α : Type} {s : State} {v : α} : alignmentGuarded s (.ok v) := fun h => nomatch h

/-- A sequence stops in its first part or in what follows it. -/
theorem alignmentGuarded.bind {α β : Type} {s : State} {c : Check α} {g : α → Check β} (hc : alignmentGuarded s c)
    (hg : ∀ a, alignmentGuarded s (g a)) : alignmentGuarded s (c >>= g) := by
  cases c with
  | error e => exact fun h => hc (by cases h; rfl)
  | ok a => exact hg a

theorem alignmentGuarded_require {s : State} {b : Bool} {x : Exception} (hx : x ≠ .ac) :
    alignmentGuarded s (require b x) := by
  cases b with
  | true => exact alignmentGuarded_ok
  | false => intro h; cases h; exact absurd rfl hx

theorem alignmentGuarded_gp {s : State} {b : Bool} {code : Option (BitVec 32)} :
    alignmentGuarded s (require b (.gp code)) := alignmentGuarded_require nofun

theorem alignmentGuarded_cp {s : State} {b : Bool} : alignmentGuarded s (require b .cp) :=
  alignmentGuarded_require nofun

/-! ### Memory and the stack -/

theorem alignmentGuarded_loadV (s : State) (acc : Access) (a : Word) (n : Nat) :
    alignmentGuarded s (loadV s acc a n) := by
  intro h
  obtain ⟨code, la, hpf⟩ := loadV_error h
  cases hpf

theorem alignmentGuarded_commitStores (s : State) (cs ss token : Option Word) :
    alignmentGuarded s (commitStores s cs ss token) := by
  intro h
  obtain ⟨code, la, hpf⟩ := commitStores_exc h
  cases hpf

theorem alignmentGuarded_freeToken (s : State) (token : Option Word) : alignmentGuarded s (freeToken s token) := by
  cases token with
  | none => exact alignmentGuarded_ok
  | some la => exact fun h => (refusing_not_exc h).elim

/-- The alignment test of a stack read raises `#AC` only where alignment is checked (20_memory.md R62, R66). -/
theorem alignmentGuarded_stackAligned (s : State) (off : Word) (n : Nat) :
    alignmentGuarded s (require (stackAligned s off n) .ac) := by
  intro h
  by_contra happlies
  rw [stackAligned, Bool.eq_false_iff.mpr happlies] at h
  cases h

theorem alignmentGuarded_popAt (s : State) (n : OpSize) (k : Nat) : alignmentGuarded s (popAt s n k) := by
  have hfault : stackFault s ≠ .ac := by unfold stackFault; split <;> nofun
  exact (alignmentGuarded_require hfault).bind fun _ =>
    (alignmentGuarded_stackAligned s _ _).bind fun _ => alignmentGuarded_loadV s _ _ _

theorem alignmentGuarded_popSel (s : State) (n : OpSize) (k : Nat) : alignmentGuarded s (popSel s n k) :=
  (alignmentGuarded_popAt s n k).bind fun _ => alignmentGuarded_ok

theorem alignmentGuarded_popFrame (s : State) (n : OpSize) : alignmentGuarded s (popFrame s n) :=
  (alignmentGuarded_popAt s n 0).bind fun _ => (alignmentGuarded_popSel s n 1).bind fun _ =>
    (alignmentGuarded_popAt s n 2).bind fun _ => alignmentGuarded_ok

theorem alignmentGuarded_popStack (s : State) (n : OpSize) : alignmentGuarded s (popStack s n) :=
  (alignmentGuarded_popAt s n 3).bind fun _ => (alignmentGuarded_popSel s n 4).bind fun _ => alignmentGuarded_ok

theorem alignmentGuarded_popV86Items (s : State) : alignmentGuarded s (popV86Items s) :=
  (alignmentGuarded_popAt s .w32 3).bind fun _ => (alignmentGuarded_popSel s .w32 4).bind fun _ =>
    (alignmentGuarded_popSel s .w32 5).bind fun _ => (alignmentGuarded_popSel s .w32 6).bind fun _ =>
    (alignmentGuarded_popSel s .w32 7).bind fun _ => (alignmentGuarded_popSel s .w32 8).bind fun _ =>
    alignmentGuarded_ok

/-! ### Segment and shadow-stack checks -/

theorem alignmentGuarded_readDescriptor (s : State) (sel : Sel) : alignmentGuarded s (readDescriptor s sel) :=
  alignmentGuarded_gp.bind fun _ => alignmentGuarded_gp.bind fun _ => alignmentGuarded_gp.bind fun _ =>
    alignmentGuarded_loadV s _ _ _

theorem alignmentGuarded_returnCSCheck (s : State) (sel : Sel) : alignmentGuarded s (returnCSCheck s sel) :=
  alignmentGuarded_gp.bind fun _ => (alignmentGuarded_readDescriptor s sel).bind fun _ =>
    alignmentGuarded_gp.bind fun _ => (alignmentGuarded_require (by nofun)).bind fun _ => alignmentGuarded_ok

theorem alignmentGuarded_returnSSCheck (s : State) (sel : Sel) (rpl : BitVec 2) (newCS : SegReg) :
    alignmentGuarded s (returnSSCheck s sel rpl newCS) := by
  unfold returnSSCheck
  split
  · exact alignmentGuarded_gp.bind fun _ => alignmentGuarded_ok
  · exact (alignmentGuarded_readDescriptor s sel).bind fun _ => alignmentGuarded_gp.bind fun _ =>
      (alignmentGuarded_require (by nofun)).bind fun _ => alignmentGuarded_ok

theorem alignmentGuarded_shadowFrame (s : State) (cs : Sel) (newCS : SegReg) (ip : Word) :
    alignmentGuarded s (shadowFrame s cs newCS ip) :=
  (alignmentGuarded_loadV s _ _ 8).bind fun _ => (alignmentGuarded_loadV s _ _ 8).bind fun _ =>
    (alignmentGuarded_loadV s _ _ 8).bind fun _ => alignmentGuarded_cp.bind fun _ => alignmentGuarded_cp.bind fun _ =>
    alignmentGuarded_cp.bind fun _ => alignmentGuarded_ok

theorem alignmentGuarded_outerFrame (s : State) (rpl : BitVec 2) (cs : Sel) (newCS : SegReg) (ip : Word) :
    alignmentGuarded s (outerFrame s rpl cs newCS ip) := by
  unfold outerFrame
  split
  · refine alignmentGuarded_cp.bind fun _ => ?_
    split
    · exact alignmentGuarded_ok
    · exact (alignmentGuarded_shadowFrame s cs newCS ip).bind fun _ => alignmentGuarded_ok
  · exact alignmentGuarded_ok

theorem alignmentGuarded_outerPrev (s : State) (rpl : BitVec 2) (popped : Option Word) :
    alignmentGuarded s (outerPrev s rpl popped) := by
  unfold outerPrev
  split
  · exact alignmentGuarded_cp.bind fun _ => alignmentGuarded_ok
  · cases popped with
    | none => exact fun h => nomatch h
    | some prev => exact alignmentGuarded_ok

theorem alignmentGuarded_shadowOuterChecks (s : State) (rpl : BitVec 2) (cs : Sel) (newCS : SegReg) (ip : Word) :
    alignmentGuarded s (shadowOuterChecks s rpl cs newCS ip) := by
  refine (alignmentGuarded_outerFrame s rpl cs newCS ip).bind fun popped => ?_
  dsimp only
  split
  · exact (alignmentGuarded_outerPrev s rpl popped).bind fun _ => alignmentGuarded_gp.bind fun _ => alignmentGuarded_ok
  · exact alignmentGuarded_ok

theorem alignmentGuarded_shadowSameChecks (s : State) (cs : Sel) (newCS : SegReg) (ip : Word) :
    alignmentGuarded s (shadowSameChecks s cs newCS ip) := by
  unfold shadowSameChecks
  split
  · exact alignmentGuarded_cp.bind fun _ => (alignmentGuarded_shadowFrame s cs newCS ip).bind fun _ =>
      alignmentGuarded_gp.bind fun _ => alignmentGuarded_ok
  · exact alignmentGuarded_ok

/-! ### The paths -/

theorem alignmentGuarded_returnToOuter (n : OpSize) (s : State) (f : Frame) (newCS : LoadedSeg) :
    alignmentGuarded s (returnToOuter n s f newCS) :=
  (alignmentGuarded_popStack s n).bind fun _ => (alignmentGuarded_returnSSCheck s _ _ _).bind fun _ =>
    alignmentGuarded_gp.bind fun _ => (alignmentGuarded_shadowOuterChecks s _ _ _ _).bind fun _ =>
    (alignmentGuarded_commitStores s _ _ _).bind fun _ => alignmentGuarded_ok

theorem alignmentGuarded_returnToSame (n : OpSize) (s : State) (f : Frame) (newCS : LoadedSeg) :
    alignmentGuarded s (returnToSame n s f newCS) :=
  alignmentGuarded_gp.bind fun _ => (alignmentGuarded_shadowSameChecks s _ _ _).bind fun _ =>
    (alignmentGuarded_commitStores s _ _ _).bind fun _ => alignmentGuarded_ok

theorem alignmentGuarded_returnToSameSwitch (n : OpSize) (s : State) (f : Frame) (newCS : LoadedSeg) :
    alignmentGuarded s (returnToSameSwitch n s f newCS) :=
  (alignmentGuarded_popStack s n).bind fun _ => (alignmentGuarded_returnSSCheck s _ _ _).bind fun _ =>
    alignmentGuarded_gp.bind fun _ => (alignmentGuarded_shadowSameChecks s _ _ _).bind fun _ =>
    (alignmentGuarded_commitStores s _ _ _).bind fun _ => alignmentGuarded_ok

theorem alignmentGuarded_returnToVirtual8086 (s : State) (f : Frame) :
    alignmentGuarded s (returnToVirtual8086 s f) :=
  alignmentGuarded_gp.bind fun _ => alignmentGuarded_gp.bind fun _ => (alignmentGuarded_popV86Items s).bind fun _ =>
    alignmentGuarded_cp.bind fun _ => (alignmentGuarded_freeToken s _).bind fun _ => alignmentGuarded_ok

theorem alignmentGuarded_protectedMode (n : OpSize) (s : State) : alignmentGuarded s (protectedMode n s) := by
  refine (alignmentGuarded_popFrame s n).bind fun f => ?_
  split
  · exact alignmentGuarded_returnToVirtual8086 s f
  · refine (alignmentGuarded_returnCSCheck s f.cs).bind fun newCS => ?_
    split
    · exact alignmentGuarded_returnToOuter n s f newCS
    · exact alignmentGuarded_returnToSame n s f newCS

theorem alignmentGuarded_ia32eMode (n : OpSize) (s : State) : alignmentGuarded s (ia32eMode n s) := by
  refine alignmentGuarded_gp.bind fun _ => (alignmentGuarded_popFrame s n).bind fun f =>
    (alignmentGuarded_returnCSCheck s f.cs).bind fun newCS => ?_
  split
  · exact alignmentGuarded_returnToOuter n s f newCS
  · split
    · exact alignmentGuarded_returnToSameSwitch n s f newCS
    · exact alignmentGuarded_returnToSame n s f newCS

/-- An execution without a task return raises `#AC` only where alignment is checked. -/
theorem alignmentGuarded_pathOf (n : OpSize) (s : State) : alignmentGuarded s (pathOf n s) := by
  unfold pathOf
  cases dispatch s with
  | realAddress =>
    exact (alignmentGuarded_popFrame s n).bind fun _ => alignmentGuarded_gp.bind fun _ => alignmentGuarded_ok
  | fromV86 =>
    exact alignmentGuarded_gp.bind fun _ => (alignmentGuarded_popFrame s n).bind fun _ =>
      alignmentGuarded_gp.bind fun _ => alignmentGuarded_ok
  | protectedMode => exact alignmentGuarded_protectedMode n s
  | ia32e => exact alignmentGuarded_ia32eMode n s

/-- Alignment is checked at CPL 3 alone (20_memory.md R66). -/
theorem alignmentCheckApplies_cpl {s : State} (h : alignmentCheckApplies s = true) : s.cpl = 3#2 := by
  simp only [alignmentCheckApplies, Bool.and_eq_true, beq_iff_eq] at h
  obtain ⟨⟨⟨-, hcpl⟩, -⟩, -⟩ := h
  exact hcpl

/-- Settles O39: the path raises `#AC` only where alignment is checked, and there CPL is 3. -/
theorem alignmentFaultsOnlyAtCpl3 : Obligations.AlignmentFaultsOnlyAtCpl3 := by
  intro i n s left hi hn hcpl h
  obtain ⟨x, hpath, hx⟩ := exec_fault hi hn h
  cases hx
  exact hcpl (alignmentCheckApplies_cpl (alignmentGuarded_pathOf n s hpath))

end Sys2Proof.Machine
end

section
/-! PROOFS. Stores (20_memory.md R69, R70, R333): the bytes an execution may store to, the token compare-exchange, and
the accessed-bit writes. -/

namespace Sys2Proof.Machine

/-! ### The accessed bits of the loaded segments -/

/-- The mark of a loaded segment is the descriptor whose clear accessed bit the write-back sets. -/
theorem markByte_loadSegment {s : State} {sel : Sel} {d : Word} (hnull : selNull sel = false) :
    ∀ p ∈ markByte (loadSegment s sel d).mark, p ∈ markTargets s sel := by
  unfold loadSegment markTargets
  rw [hnull]
  cases s.params.descAccessedWriteback <;> cases descAccessed d <;> simp [markByte]

/-- The load of CS stores at most to the accessed bit of its descriptor. -/
theorem returnCSCheck_markByte {s : State} {sel : Sel} {c : LoadedSeg} (h : returnCSCheck s sel = .ok c) :
    ∀ p ∈ markByte c.mark, p ∈ markTargets s sel := by
  obtain ⟨d, hnull, -, -, -, rfl⟩ := returnCSCheck_ok.mp h
  exact markByte_loadSegment hnull

/-- The check of SS answers with a NULL register, or with the segment of a descriptor that passes its rows (44 R212,
R213). -/
theorem returnSSCheck_ok {s : State} {sel : Sel} {rpl : BitVec 2} {newCS : SegReg} {q : LoadedSeg} :
    returnSSCheck s sel rpl newCS = .ok q ↔
      (selNull sel = true ∧ nullSSAccepted s sel rpl newCS = true ∧ q = ⟨nullSeg s.freeIdx sel, none⟩)
      ∨ (selNull sel = false ∧ ∃ d, readDescriptor s sel = .ok d ∧ stackDescriptorRows sel rpl d = true
        ∧ descPresent d = true ∧ q = loadSegment s sel d) := by
  unfold returnSSCheck
  cases hnull : selNull sel with
  | true =>
    simp only [if_true, check_bind_ok, require_ok, true_and, Bool.true_eq_false, false_and, or_false]
    constructor
    · rintro ⟨_, haccepted, h⟩
      cases h
      exact ⟨haccepted, rfl⟩
    · rintro ⟨haccepted, rfl⟩
      exact ⟨(), haccepted, rfl⟩
  | false =>
    simp only [Bool.false_eq_true, if_false, check_bind_ok, require_ok, true_and, false_and, false_or]
    constructor
    · rintro ⟨d, hd, _, hrows, _, hpresent, h⟩
      cases h
      exact ⟨d, hd, hrows, hpresent, rfl⟩
    · rintro ⟨d, hd, hrows, hpresent, rfl⟩
      exact ⟨d, hd, (), hrows, (), hpresent, rfl⟩

/-- The load of SS stores at most to the accessed bit of its descriptor; a NULL selector stores nothing. -/
theorem returnSSCheck_markByte {s : State} {sel : Sel} {rpl : BitVec 2} {newCS : SegReg} {q : LoadedSeg}
    (h : returnSSCheck s sel rpl newCS = .ok q) : ∀ p ∈ markByte q.mark, p ∈ markTargets s sel := by
  obtain ⟨-, -, rfl⟩ | ⟨hnull, d, -, -, -, rfl⟩ := returnSSCheck_ok.mp h
  · exact fun p hp => absurd hp List.not_mem_nil
  · exact markByte_loadSegment hnull

/-! ### The token of a return -/

/-- A frame is popped from the shadow stack of an outer return unless it goes to level 3 (45 R254). -/
theorem outerFrame_isSome {s : State} {rpl : BitVec 2} {cs : Sel} {newCS : SegReg} {ip : Word} {popped : Option Word}
    (he : shadowStackEnabled s s.cpl = true) (h : outerFrame s rpl cs newCS ip = .ok popped) :
    popped.isSome = !decide (rpl = 3#2) := by
  unfold outerFrame at h
  rw [if_pos he] at h
  obtain ⟨_, -, h⟩ := check_bind_ok.mp h
  split at h
  next h3 =>
    cases h
    rw [decide_eq_true h3]
    rfl
  next h3 =>
    obtain ⟨prev, -, h⟩ := check_bind_ok.mp h
    cases h
    rw [decide_eq_false h3]
    rfl

/-- The token of an outer return is at the SSP it leaves (45 R254). -/
theorem shadowOuterChecks_token {s : State} {rpl : BitVec 2} {cs : Sel} {newCS : SegReg} {ip : Word} {sh : ShadowResult}
    (h : shadowOuterChecks s rpl cs newCS ip = .ok sh) : ∃ popped, outerFrame s rpl cs newCS ip = .ok popped
      ∧ sh.token = if shadowStackEnabled s s.cpl = true then some (outerOldSsp s popped) else none := by
  obtain ⟨popped, hpopped, h⟩ := check_bind_ok.mp h
  refine ⟨popped, hpopped, ?_⟩
  dsimp only at h
  by_cases hrpl : shadowStackEnabled s rpl = true
  · rw [if_pos hrpl] at h
    obtain ⟨prev, -, h⟩ := check_bind_ok.mp h
    obtain ⟨_, -, h⟩ := check_bind_ok.mp h
    cases h
    rfl
  · rw [if_neg hrpl] at h
    cases h
    rfl

/-- On an outer return that is the token of the return. -/
theorem shadowOuterChecks_returnToken {s : State} {cs : Sel} {newCS : SegReg} {ip : Word} {sh : ShadowResult}
    (hlt : s.cpl < selRpl cs) (h : shadowOuterChecks s (selRpl cs) cs newCS ip = .ok sh) :
    sh.token = returnToken s cs := by
  obtain ⟨popped, hpopped, htoken⟩ := shadowOuterChecks_token h
  rw [htoken, returnToken]
  split
  next he =>
    rw [outerOldSsp, outerFrame_isSome he hpopped]
    by_cases h3 : selRpl cs = 3#2
    · simp [h3, h3 ▸ hlt]
    · simp [h3]
  · rfl

/-- A return to the same level frees the token above the popped frame, or none (45 R257). -/
theorem shadowSameChecks_token {s : State} {cs : Sel} {newCS : SegReg} {ip : Word} {sh : ShadowResult}
    (hlt : ¬ s.cpl < selRpl cs) (h : shadowSameChecks s cs newCS ip = .ok sh) :
    sh.token = none ∨ sh.token = returnToken s cs := by
  unfold shadowSameChecks at h
  unfold returnToken
  split at h
  next he =>
    obtain ⟨_, -, h⟩ := check_bind_ok.mp h
    obtain ⟨prev, -, h⟩ := check_bind_ok.mp h
    obtain ⟨_, -, h⟩ := check_bind_ok.mp h
    cases h
    have hout : ¬ (s.cpl < selRpl cs ∧ selRpl cs = 3#2) := fun ⟨hlt', _⟩ => hlt hlt'
    rw [if_pos he, if_neg hout]
    dsimp only
    split
    · exact .inr rfl
    · exact .inl rfl
  · cases h
    exact .inl rfl

theorem shadowSameChecks_tokenTargets {s : State} {cs : Sel} {newCS : SegReg} {ip : Word} {sh : ShadowResult}
    (hlt : ¬ s.cpl < selRpl cs) (h : shadowSameChecks s cs newCS ip = .ok sh) :
    ∀ p ∈ tokenTargets s sh.token, p ∈ tokenTargets s (returnToken s cs) := by
  obtain hnone | htoken := shadowSameChecks_token hlt h
  · rw [hnone]
    exact fun p hp => absurd hp List.not_mem_nil
  · rw [htoken]
    exact fun p hp => hp

/-! ### The bytes an execution may store to -/

/-- Memory after stores to bytes that are all among the targets. -/
theorem mem_read_of_storesOnly {s : State} {m : Memory} {l targets : List (Access × Word)} {a : Nat}
    (h : storesOnly s { s with mem := m } l) (hl : ∀ p ∈ l, p ∈ targets)
    (ha : ∀ p ∈ targets, ∀ pa, translate s p.1 p.2 = .ok pa → pa.toNat ≠ a) : m.read a = s.mem.read a := by
  obtain ⟨m', heq, -, hread⟩ := storesOnly_mono h hl
  obtain rfl : m = m' := congrArg State.mem heq
  exact hread a ha

/-- The stores of a return's Commit go to the targets of the return, where those of SS do. -/
theorem commit_targets {n : OpSize} {s : State} {f : Frame} {c : LoadedSeg} {ssMark token : Option Word}
    (hc : returnCSCheck s f.cs = .ok c)
    (hss : ∀ p ∈ markByte ssMark, popsStack s f.cs = true ∧ ∃ ss, popSel s n 4 = .ok ss ∧ p ∈ markTargets s ss)
    (ht : ∀ p ∈ tokenTargets s token, p ∈ tokenTargets s (returnToken s f.cs)) :
    ∀ p ∈ markByte c.mark ++ markByte ssMark ++ tokenTargets s token, p ∈ returnTargets n s f := by
  intro p hp
  unfold returnTargets
  rw [List.mem_append, List.mem_append] at hp ⊢
  obtain (hp | hp) | hp := hp
  · exact .inl (.inl (returnCSCheck_markByte hc p hp))
  · obtain ⟨hpops, ss, hpop, hmark⟩ := hss p hp
    refine .inl (.inr ?_)
    rw [if_pos hpops, hpop]
    exact hmark
  · exact .inr (ht p hp)

/-- Where SS is popped, the load of it stores to the accessed bit of the popped selector. -/
theorem popped_markByte {n : OpSize} {s : State} {f : Frame} {st : StackItems} {newCS : SegReg} {q : LoadedSeg}
    (hpops : popsStack s f.cs = true) (hst : popStack s n = .ok st)
    (hq : returnSSCheck s st.ss (selRpl f.cs) newCS = .ok q) :
    ∀ p ∈ markByte q.mark, popsStack s f.cs = true ∧ ∃ ss, popSel s n 4 = .ok ss ∧ p ∈ markTargets s ss := by
  obtain ⟨sp, ss, -, hss, rfl⟩ := popStack_ok.mp hst
  exact fun p hp => ⟨hpops, _, popSel_of_pop hss, returnSSCheck_markByte hq p hp⟩

/-- The targets of an execution that ends in a protected-style return. -/
theorem storeTargets_of_return {n : OpSize} {s : State} {f : Frame} (hf : popFrame s n = .ok f)
    (hreal : dispatch s ≠ .realAddress) (hv86 : dispatch s ≠ .fromV86)
    (hto : dispatch s = .protectedMode → returnsToV86 s f = false) : storeTargets n s = returnTargets n s f := by
  unfold storeTargets
  rw [hf]
  cases hd : dispatch s with
  | realAddress => exact absurd hd hreal
  | fromV86 => exact absurd hd hv86
  | protectedMode =>
    change (if returnsToV86 s f = true then _ else _) = _
    rw [hto hd]
    rfl
  | ia32e => rfl

/-- The targets of a return to virtual-8086 mode. -/
theorem storeTargets_of_toV86 {n : OpSize} {s : State} {f : Frame} (hf : popFrame s n = .ok f)
    (hd : dispatch s = .protectedMode) (hto : returnsToV86 s f = true) :
    storeTargets n s = tokenTargets s (v86Token s) := by
  unfold storeTargets
  rw [hf, hd]
  change (if returnsToV86 s f = true then _ else _) = _
  rw [if_pos hto]

/-- A path leaves every byte alone that is no target. -/
theorem pathOf_mem_read {n : OpSize} {s t : State} {a : Nat} (h : pathOf n s = .ok t)
    (ha : ∀ p ∈ storeTargets n s, ∀ pa, translate s p.1 p.2 = .ok pa → pa.toNat ≠ a) :
    t.mem.read a = s.mem.read a := by
  obtain ⟨f, hf, ⟨-, -, rfl⟩ | ⟨-, -, -, rfl⟩ | ⟨hm, hto, v, m, -, hm', rfl⟩ | ⟨hreal, hv86, hto, c, hc, hreturn⟩⟩ :=
    pathOf_cases h
  · rfl
  · rfl
  · rw [storeTargets_of_toV86 hf (by rw [dispatch_eq, hm]) hto] at ha
    exact mem_read_of_storesOnly (freeToken_storesOnly hm') (fun p hp => hp) ha
  · rw [storeTargets_of_return hf hreal hv86 hto] at ha
    obtain ⟨hlt, st, q, sh, m, hst, hq, hsh, hm, rfl⟩ | ⟨hlt, -, sh, m, hsh, hm, rfl⟩ |
      ⟨hlt, hm64, st, q, sh, m, hst, hq, hsh, hm, rfl⟩ := hreturn
    · have hpops : popsStack s f.cs = true := by rw [popsStack, decide_eq_true hlt, Bool.true_or]
      refine mem_read_of_storesOnly (commitStores_storesOnly hm)
        (commit_targets hc (popped_markByte hpops hst hq) fun p hp => ?_) ha
      rwa [shadowOuterChecks_returnToken hlt hsh] at hp
    · exact mem_read_of_storesOnly (commitStores_storesOnly hm)
        (commit_targets hc (fun p hp => absurd hp List.not_mem_nil) (shadowSameChecks_tokenTargets hlt hsh)) ha
    · have hpops : popsStack s f.cs = true := by rw [popsStack, decide_eq_true hm64, Bool.or_true]
      exact mem_read_of_storesOnly (commitStores_storesOnly hm)
        (commit_targets hc (popped_markByte hpops hst hq) (shadowSameChecks_tokenTargets hlt hsh)) ha

/-- Settles O50: what completes is a path, which stores to its targets alone. -/
theorem storesOnlyAtComputedAddresses : Obligations.StoresOnlyAtComputedAddresses := by
  intro i n s t a hi hn h ha
  obtain ⟨u, hu, rfl⟩ := exec_next hi hn h
  rw [retire_mem]
  exact pathOf_mem_read hu ha

end Sys2Proof.Machine
end

section
/-! PROOFS. The two stores of a Commit: the token compare-exchange (20_memory.md R69) and the accessed bits (R70, R284). -/

namespace Sys2Proof.Machine

/-! ### Stores under the identity translation -/

/-- Without rules `Translate` is the identity (20_memory.md R71). -/
theorem translate_identity {s : State} (h : s.translation = []) (acc : Access) (a : Word) :
    translate s acc a = .ok (linearAddr s a) := by
  unfold translate
  rw [h]
  split
  · rfl
  · rfl

/-- A store under the identity translation completes. -/
theorem storeV_identity {n : Nat} {s : State} {acc : Access} {a v : Word} (h : s.translation = []) :
    ∃ m, storeV s acc a n v = .ok { s with mem := m } := by
  induction n generalizing s a v with
  | zero => exact ⟨s.mem, rfl⟩
  | succ n ih =>
    have hfirst : modifyByte s acc a (fun _ => v.setWidth 8) = .ok
        { s with mem := s.mem.write (linearAddr s a).toNat (v.setWidth 8) } :=
      modifyByte_ok.mpr ⟨_, translate_identity h acc a, rfl⟩
    unfold storeV
    rw [hfirst, check_ok_bind]
    exact ih h

/-- Fewer than 2^32 bytes further on the linear address is another one, in 32 bits and in 64. -/
theorem linearAddr_add_ne {s : State} {a : Word} {k : Nat} (h0 : 0 < k) (hk : k < 2 ^ 32) :
    (linearAddr s (a + BitVec.ofNat 64 k)).toNat ≠ (linearAddr s a).toNat := by
  have ha : a.toNat < 2 ^ 64 := a.isLt
  unfold linearAddr
  split
  · rw [BitVec.toNat_add, BitVec.toNat_ofNat]
    omega
  · rw [lowPart_toNat, lowPart_toNat, BitVec.toNat_add, BitVec.toNat_ofNat, OpSize.bytes]
    omega

/-- The first byte of a stored value is read back: the bytes above it stand at other addresses. -/
theorem loadByte_storeV {n : Nat} {s u : State} {acc acc' : Access} {a v : Word} (ht : s.translation = [])
    (hw : s.mem.wf = true) (hn : n < 2 ^ 32) (h : storeV s acc a (n + 1) v = .ok u) :
    loadByte u acc' a = .ok (v.setWidth 8) := by
  obtain ⟨t, hfirst, hrest⟩ := check_bind_ok.mp h
  obtain ⟨pa, hpa, rfl⟩ := modifyByte_ok.mp hfirst
  obtain rfl : linearAddr s a = pa := Except.ok.inj ((translate_identity ht acc a).symm.trans hpa)
  obtain ⟨m, rfl, -, hread⟩ := storeV_storesOnly hrest
  rw [loadByte_mem, translate_mem, translate_identity ht]
  refine congrArg Except.ok ((hread _ ?_).trans (Memory.read_write_same _ hw))
  rintro p hp pa hpa
  obtain ⟨k, hk, rfl⟩ := List.mem_map.mp hp
  rw [add_one_add_ofNat, translate_mem, translate_identity ht] at hpa
  obtain rfl := Except.ok.inj hpa
  exact linearAddr_add_ne (Nat.succ_pos k) (by have := List.mem_range.mp hk; omega)

/-- What is stored under the identity translation is read back: the low `n` bytes of the value. -/
theorem loadV_storeV {n : Nat} {s u : State} {acc acc' : Access} {a v : Word} (ht : s.translation = [])
    (hw : s.mem.wf = true) (hn : n ≤ 8) (h : storeV s acc a n v = .ok u) :
    ∃ w, loadV u acc' a n = .ok w ∧ w.toNat = v.toNat % 2 ^ (8 * n) := by
  induction n generalizing s a v with
  | zero => exact ⟨0#64, rfl, by simp [Nat.mod_one]⟩
  | succ n ih =>
    have hbyte : loadByte u acc' a = .ok (v.setWidth 8) := loadByte_storeV ht hw (by omega) h
    obtain ⟨t, hfirst, hrest⟩ := check_bind_ok.mp h
    obtain ⟨m, rfl, hm, -⟩ := modifyByte_storesOnly hfirst
    obtain ⟨x, hx, hval⟩ := ih (s := { s with mem := m }) (v := v >>> 8) ht (hm hw) (by omega) hrest
    obtain ⟨w, hw', hsum⟩ := loadV_succ (by omega) hbyte hx
    refine ⟨w, hw', ?_⟩
    rw [hsum, hval, BitVec.toNat_setWidth, BitVec.toNat_ushiftRight, Nat.shiftRight_eq_div_pow,
      show 2 ^ (8 * (n + 1)) = 2 ^ 8 * 2 ^ (8 * n) by rw [← pow_add]; congr 1; omega, Nat.mod_mul]
    rfl

/-- The token access stores only on a match. -/
theorem tokenFree_of_load {s : State} {la v : Word} (h : loadV s (.shadowRead (shadowUser s)) la 8 = .ok v) :
    tokenFree s la = if v = la ||| 1#64 then refusing .tokenPageFault (storeV s (.shadowWrite (shadowUser s)) la 8 la)
      else .ok s := by
  unfold tokenFree
  rw [h, check_ok_bind]
  split
  · rfl
  · rfl

/-- Settles O57: a match stores `la`, which its eight bytes then read as; anything else stores nothing. -/
theorem tokenIsFreedExactlyWhenItMatches : Obligations.TokenIsFreedExactlyWhenItMatches := by
  intro s la v hw hv
  rw [tokenFree_of_load hv]
  refine ⟨fun hmatch ht => ?_, fun hne => if_neg hne⟩
  obtain ⟨m, hm⟩ := storeV_identity (n := 8) (acc := .shadowWrite (shadowUser s)) (a := la) (v := la) ht
  obtain ⟨w, hload, hval⟩ := loadV_storeV (acc' := .shadowRead (shadowUser s)) ht hw (by decide) hm
  obtain rfl : w = la := BitVec.eq_of_toNat_eq (hval.trans (Nat.mod_eq_of_lt la.isLt))
  refine ⟨_, ?_, rfl, hload⟩
  rw [if_pos hmatch, hm]
  rfl

/-! ### The accessed-bit writes of a return -/

/-- The descriptor a load marks: its own, where the write-back is on and the accessed bit clear (20_memory.md R70). -/
theorem loadSegment_mark_some {s : State} {sel : Sel} {d : Word}
    (h : s.params.descAccessedWriteback = true ∧ d.getLsbD 40 = false) :
    (loadSegment s sel d).mark = some (descriptorAddr s sel) := by
  obtain ⟨hwriteback, hclear⟩ := h
  unfold loadSegment descAccessed
  rw [hwriteback, hclear]
  rfl

theorem loadSegment_mark_none {s : State} {sel : Sel} {d : Word}
    (h : ¬ (s.params.descAccessedWriteback = true ∧ d.getLsbD 40 = false)) : (loadSegment s sel d).mark = none := by
  unfold loadSegment descAccessed
  refine if_neg fun hmark => h ?_
  rwa [Bool.and_eq_true, Bool.not_eq_true'] at hmark

/-- An accessed-bit write sets bit 0 of byte 5 of the descriptor. -/
theorem markAccessed_some (s : State) (desc : Word) :
    markAccessed s (some desc) = modifyByte s .supervisorWrite (desc + 5#64) (fun b => b ||| 1#8) := rfl

/-- A selector is NULL when it is below 4 (10_state.md R35). -/
theorem selNull_eq_false {sel : Sel} : selNull sel = false ↔ 4 ≤ sel.toNat := by
  unfold selNull
  rw [beq_eq_false_iff_ne, ne_eq, ← BitVec.toNat_inj, BitVec.extractLsb'_toNat, Nat.shiftRight_eq_div_pow]
  have : sel.toNat < 2 ^ 16 := sel.isLt
  simp only [BitVec.toNat_ofNat]
  omega

/-- The rows of `ReturnCSCheck` for a descriptor that meets the conditions of the table (44 R210, rows 3 to 7). -/
theorem codeDescriptorRows_of_returnable {s : State} {cs : Sel} {d : Word} (h : codeSegmentReturnable s cs d) :
    codeDescriptorRows s cs d = true := by
  obtain ⟨-, hs, hcode, hcpl, hconforming, hdpl, hld, -⟩ := h
  obtain ⟨hconf, hnonconf⟩ : (!(d.getLsbD 42 && decide (selRpl cs < descDpl d))) = true
      ∧ (!(!d.getLsbD 42 && descDpl d != selRpl cs)) = true := by
    cases hd : d.getLsbD 42 with
    | true => exact ⟨by rw [descDpl, decide_eq_false (BitVec.not_lt.mpr (hconforming hd))]; rfl, rfl⟩
    | false => exact ⟨rfl, by rw [descDpl, hdpl hd, bne_self_eq_false]; rfl⟩
  have hsize : (!(s.eferLMA && d.getLsbD 53 && d.getLsbD 54)) = true := by
    simpa only [Bool.not_eq_true', Bool.and_eq_false_iff, not_and_or, Bool.not_eq_true, or_assoc] using hld
  unfold codeDescriptorRows descIsCode descConforming descL descDB
  rw [hs, hcode, decide_eq_true hcpl, hconf, hnonconf, hsize]
  rfl

/-- Such a descriptor passes `ReturnCSCheck`, and CS is loaded from it. -/
theorem returnCSCheck_of_returnable {s : State} {cs : Sel} {d : Word} (hd : readDescriptor s cs = .ok d)
    (h : codeSegmentReturnable s cs d) : returnCSCheck s cs = .ok (loadSegment s cs d) := by
  obtain ⟨hnull, -, -, -, -, -, -, hpresent⟩ := id h
  exact returnCSCheck_ok.mpr
    ⟨d, selNull_eq_false.mpr hnull, hd, codeDescriptorRows_of_returnable h, hpresent, rfl⟩

/-- The condition of `IPCheck` for the segment of a descriptor (44 R214). -/
theorem ipAccepted_of_returnAddressOk {s : State} {cs : Sel} {d ip : Word} (h : returnAddressOk s d ip) :
    ipAccepted s (segFromDescriptor cs d) ip = true := by
  have hmode : newMode64 s (segFromDescriptor cs d) = true ↔ s.eferLMA = true ∧ d.getLsbD 53 = true :=
    Bool.and_eq_true_iff
  unfold returnAddressOk at h
  unfold ipAccepted
  simp only [hmode]
  split
  next hm => rwa [if_pos hm] at h
  next hm =>
    rw [if_neg hm] at h
    exact decide_eq_true h

/-- A return that has passed the checks before those of the shadow stack: its frame, its CS, its SS where it is popped,
and its return address are accepted. -/
theorem reachesShadowChecks_return {n : OpSize} {s : State} {ip d : Word} {cs : Sel}
    (h : reachesShadowChecks n s ip cs d) : ∃ f : Frame, f.ip = ip ∧ f.cs = cs ∧ pathOf n s = protectedReturn n s f
      ∧ returnCSCheck s cs = .ok (loadSegment s cs d)
      ∧ (s.cpl < selRpl cs ∨ modeOf s = .long64 → ∃ st newSS, popStack s n = .ok st
        ∧ returnSSCheck s st.ss (selRpl cs) (segFromDescriptor cs d) = .ok newSS)
      ∧ ipAccepted s (segFromDescriptor cs d) ip = true := by
  obtain ⟨-, -, hreal, hv86, hnt, ⟨w, fl, h0, h1, rfl, h2, hvm⟩, hd, hcs, hss, hip⟩ := h
  have hframe : popFrame s n = .ok ⟨ip, w.setWidth 16, fl⟩ := popFrame_ok.mpr ⟨ip, w, fl, h0, h1, h2, rfl⟩
  have hto : modeOf s = .protectedMode → returnsToV86 s ⟨ip, w.setWidth 16, fl⟩ = false := fun hm =>
    Bool.and_eq_false_iff.mpr ((hvm hm).imp id beq_eq_false_iff_ne.mpr)
  refine ⟨_, rfl, rfl, pathOf_protectedReturn hreal hv86 hnt hframe hto, returnCSCheck_of_returnable hd hcs,
    fun hpops => ?_, ipAccepted_of_returnAddressOk hip⟩
  obtain ⟨sp, ss, newSS, h3, h4, hcheck⟩ := hss hpops
  exact ⟨_, newSS, popStack_ok.mpr ⟨sp, ss, h3, h4, rfl⟩, hcheck⟩

/-- An exception of such a return's path is the fault of the execution. -/
theorem exec_fault_of_reaches {i : Instr} {n : OpSize} {s : State} {ip d : Word} {cs : Sel} {x : Exception}
    (hi : i.opSize = some n) (h : reachesShadowChecks n s ip cs d) (hpath : pathOf n s = .error (.exc x)) :
    exec i s = .fault (.exception x { s with nmiBlocked := false }) := by
  obtain ⟨hv, hq, -, hv86, hnt, -⟩ := h
  exact exec_fault_of hi hq hv (fun hm => absurd hm hv86) (fun _ => hnt) hpath

/-- The stores of the Commit stop a return whose shadow-stack checks have passed; `ssMark` is the accessed bit that SS has
to write, none where SS is not popped. -/
theorem protectedReturn_commit_error {n : OpSize} {s : State} {f : Frame} {newCS : LoadedSeg} {ssMark : Option Word}
    {sh : ShadowResult} {e : Stop} (hc : returnCSCheck s f.cs = .ok newCS)
    (hp : s.cpl < selRpl f.cs ∨ modeOf s = .long64 → ∃ st newSS, popStack s n = .ok st
      ∧ returnSSCheck s st.ss (selRpl f.cs) newCS.seg = .ok newSS ∧ newSS.mark = ssMark)
    (hn : ¬ (s.cpl < selRpl f.cs ∨ modeOf s = .long64) → ssMark = none) (h : ipAccepted s newCS.seg f.ip = true)
    (hsh : shadowChecks s f.cs newCS.seg f.ip = .ok sh)
    (he : commitStores s newCS.mark ssMark sh.token = .error e) : protectedReturn n s f = .error e := by
  obtain ⟨commit, hr⟩ := protectedReturn_rest hc hp hn h
  rw [hr, hsh, check_ok_bind, he, check_error_bind]

/-- A page fault of the accessed-bit write of CS is the exception of the return. -/
theorem pathOf_cs_mark_error {n : OpSize} {s : State} {ip d : Word} {cs : Sel} {sh : ShadowResult} {e : Stop}
    (h : reachesShadowChecks n s ip cs d) (hsh : shadowChecks s cs (segFromDescriptor cs d) ip = .ok sh)
    (he : markAccessed s (loadSegment s cs d).mark = .error e) : pathOf n s = .error e := by
  obtain ⟨f, rfl, rfl, hpath, hc, hss, hip⟩ := reachesShadowChecks_return h
  rw [hpath]
  by_cases hpops : s.cpl < selRpl f.cs ∨ modeOf s = .long64
  · obtain ⟨st, newSS, hst, hcheck⟩ := hss hpops
    exact protectedReturn_commit_error hc (fun _ => ⟨st, newSS, hst, hcheck, rfl⟩) (fun hn => absurd hpops hn) hip hsh
      (commitStores_cs_error he)
  · exact protectedReturn_commit_error hc (fun hp => absurd hp hpops) (fun _ => rfl) hip hsh (commitStores_cs_error he)

/-- Once that of CS is made, a page fault of the accessed-bit write of SS is. -/
theorem pathOf_ss_mark_error {n : OpSize} {s u : State} {ip d : Word} {cs : Sel} {sh : ShadowResult} {e : Stop}
    {st : StackItems} {newSS : LoadedSeg} (h : reachesShadowChecks n s ip cs d)
    (hsh : shadowChecks s cs (segFromDescriptor cs d) ip = .ok sh)
    (hu : markAccessed s (loadSegment s cs d).mark = .ok u) (hpops : s.cpl < selRpl cs ∨ modeOf s = .long64)
    (hst : popStack s n = .ok st)
    (hcheck : returnSSCheck s st.ss (selRpl cs) (segFromDescriptor cs d) = .ok newSS)
    (he : markAccessed u newSS.mark = .error e) : pathOf n s = .error e := by
  obtain ⟨f, rfl, rfl, hpath, hc, -, hip⟩ := reachesShadowChecks_return h
  rw [hpath]
  exact protectedReturn_commit_error hc (fun _ => ⟨st, newSS, hst, hcheck, rfl⟩) (fun hn => absurd hpops hn) hip hsh
    (commitStores_ss_error hu he)

/-- Settles O58: the mark of a load is its descriptor or none; and the stores come after every check of the return. -/
theorem accessedBitIsSetByALoad : Obligations.AccessedBitIsSetByALoad := by
  refine ⟨fun s sel d => ⟨fun hmark => ?_, fun hmark => ?_⟩, fun i n s ip d cs sh x hi h hsh hfault => ?_⟩
  · rw [loadSegment_mark_some hmark, markAccessed_some]
    exact ⟨fun pa hpa => modifyByte_ok.mpr ⟨pa, hpa, rfl⟩, fun code la hpf => modifyByte_error.mpr hpf⟩
  · rw [loadSegment_mark_none hmark]
    rfl
  · refine exec_fault_of_reaches hi h ?_
    obtain hcs | ⟨u, sp, ss, newSS, hu, hpops, h3, h4, hcheck, hss⟩ := hfault
    · exact pathOf_cs_mark_error h hsh hcs
    · exact pathOf_ss_mark_error h hsh hu hpops (popStack_ok.mpr ⟨sp, ss, h3, h4, rfl⟩) hcheck hss

end Sys2Proof.Machine
end

section
/-! PROOFS. The decoder and the encoder are inverse on the well-formed instructions (30_encoding.md R90 to R100), and
the operand size of every context (R94). -/

namespace Sys2Proof

/-! ### The operand size -/

/-- REX.W in 64-bit mode gives 64, whatever 66H says (30_encoding.md R94). -/
theorem operandSize_of_rexW {c : DecodeCtx} {p : Prefixes} (hm : c.mode64 = true) (hw : p.rexW = true) :
    operandSize c p = .w64 := by
  simp [operandSize, hm, hw]

/-- Otherwise 66H takes the other of 16 and 32 than the default (R93, R94). -/
theorem operandSize_of_not_rexW {c : DecodeCtx} {p : Prefixes} (h : ¬ (c.mode64 = true ∧ p.rexW = true)) :
    operandSize c p = if defaultIs32 c = p.hasOpSize then .w16 else .w32 := by
  simp only [operandSize, Bool.and_eq_true, if_neg h, beq_iff_eq]

/-- Settles O5: the default size of each row of the table, and 66H against it. -/
theorem operandSizeFollowsTheModeTable : Obligations.OperandSizeFollowsTheModeTable := by
  intro c p
  refine ⟨operandSize_of_rexW, fun hm hw => ?_, fun hm hdb => ?_, fun hm hdb => ?_⟩
  · rw [operandSize_of_not_rexW (by simp [hw])]
    simp [defaultIs32, hm]
  · rw [operandSize_of_not_rexW (by simp [hm])]
    simp [defaultIs32, hm, hdb]
  · rw [operandSize_of_not_rexW (by simp [hm])]
    cases hp : p.hasOpSize <;> simp [defaultIs32, hm, hdb]

/-! ### The row of an opcode -/

/-- The row keeps the prefixes it was read with. -/
@[simp] theorem classify_prefixes (c : DecodeCtx) (p : Prefixes) : (classify c p).prefixes = p := by
  unfold classify
  split
  · rfl
  · split <;> rfl

/-- REX.W is a bit of a REX byte, which stands in 64-bit mode only (R92). -/
theorem mode64_of_rexW {c : DecodeCtx} {p : Prefixes} (hr : rexAllowed c p = true) (hw : p.rexW = true) :
    c.mode64 = true := by
  unfold rexAllowed at hr
  unfold Prefixes.rexW at hw
  cases hrex : p.rex with
  | none => simp [hrex] at hw
  | some wrxb => simpa [hrex] using hr

/-- LOCK selects the illegal row (R96). -/
theorem classify_lock {c : DecodeCtx} {p : Prefixes} (hl : p.hasLock = true) : classify c p = .lockIret p := by
  simp [classify, hl]

/-- REX.W in 64-bit mode selects IRETQ (R94). -/
theorem classify_rexW {c : DecodeCtx} {p : Prefixes} (hl : p.hasLock = false) (hm : c.mode64 = true)
    (hw : p.rexW = true) : classify c p = .iretq p := by
  simp [classify, hl, operandSize_of_rexW hm hw]

/-- Otherwise the default size and 66H select the row (R94, R99). -/
theorem classify_legacy {c : DecodeCtx} {p : Prefixes} (hl : p.hasLock = false)
    (hn : ¬ (c.mode64 = true ∧ p.rexW = true)) :
    classify c p = if defaultIs32 c then (if p.hasOpSize then .iret66 p else .iretd p)
      else (if p.hasOpSize then .iretd66 p else .iret p) := by
  unfold classify
  rw [operandSize_of_not_rexW hn, hl]
  cases defaultIs32 c <;> cases p.hasOpSize <;> rfl

/-- The row that prefixes select is well-formed where they may stand. -/
theorem classify_wellFormed {c : DecodeCtx} {p : Prefixes} (hr : rexAllowed c p = true) :
    (classify c p).wellFormed c = true := by
  cases hl : p.hasLock with
  | true => simp [classify_lock hl, Instr.wellFormed, hl, hr]
  | false =>
    by_cases hq : c.mode64 = true ∧ p.rexW = true
    · obtain ⟨hm, hw⟩ := hq
      simp [classify_rexW hl hm hw, Instr.wellFormed, hl, hm, hw]
    · have hw : p.rexW = false := Bool.eq_false_iff.mpr fun hw => hq ⟨mode64_of_rexW hr hw, hw⟩
      rw [classify_legacy hl hq]
      cases hd : defaultIs32 c <;> cases hp : p.hasOpSize <;> simp [Instr.wellFormed, hl, hw, hr, hd, hp]

/-- The prefixes of a well-formed instruction may stand in its context (R92). -/
theorem rexAllowed_of_wellFormed {c : DecodeCtx} {i : Instr} (h : i.wellFormed c = true) :
    rexAllowed c i.prefixes = true := by
  cases i with
  | iretq p =>
    have hm : c.mode64 = true := (Bool.and_eq_true_iff.mp h).2
    simp [rexAllowed, hm]
  | lockIret p => exact (Bool.and_eq_true_iff.mp h).2
  | iret p | iret66 p | iretd p | iretd66 p =>
    simp only [Instr.wellFormed, Bool.and_eq_true] at h
    obtain ⟨⟨⟨-, hr⟩, -⟩, -⟩ := h
    exact hr

/-- Its prefixes select it. -/
theorem classify_of_wellFormed {c : DecodeCtx} {i : Instr} (h : i.wellFormed c = true) :
    classify c i.prefixes = i := by
  cases i with
  | iretq p =>
    simp only [Instr.wellFormed, Bool.and_eq_true, Bool.not_eq_true'] at h
    obtain ⟨⟨hl, hw⟩, hm⟩ := h
    exact classify_rexW hl hm hw
  | lockIret p => exact classify_lock (Bool.and_eq_true_iff.mp h).1
  | iret p | iret66 p | iretd p | iretd66 p =>
    simp only [Instr.wellFormed, Bool.and_eq_true, Bool.not_eq_true'] at h
    obtain ⟨⟨⟨⟨hl, hw⟩, -⟩, hp⟩, hd⟩ := h
    simp [Instr.prefixes, classify_legacy hl (show ¬ (c.mode64 = true ∧ p.rexW = true) by simp [hw]), hp, hd]

/-! ### The prefixes -/

@[simp] theorem legacyOfByte_byte (l : LegacyPrefix) : legacyOfByte l.byte = some l := by
  cases l <;> rfl

/-- A legacy byte is read from its own byte alone (R93, R96). -/
theorem legacyOfByte_eq_some {b : Byte} {l : LegacyPrefix} (h : legacyOfByte b = some l) : b = l.byte := by
  unfold legacyOfByte at h
  split at h
  · cases h
    assumption
  · split at h
    · cases h
      assumption
    · cases h

theorem legacy_byte_ne_opcode (l : LegacyPrefix) : l.byte ≠ opcodeByte := by
  cases l <;> decide

/-- A REX byte is 4H above its W R X B (R92). -/
theorem rexByte_of_isRexByte {b : Byte} (h : isRexByte b = true) : rexByte (b.extractLsb' 0 4) = b := by
  have hhigh : b.extractLsb' 4 4 = 4#4 := by simpa [isRexByte] using h
  have hwhole : b.extractLsb' 4 4 ++ b.extractLsb' 0 4 = b.extractLsb' 0 8 :=
    BitVec.extractLsb'_append_extractLsb'_eq_extractLsb' rfl
  rw [rexByte, ← hhigh, hwhole, BitVec.extractLsb'_eq_self]

@[simp] theorem rexByte_wrxb (w : BitVec 4) : (rexByte w).extractLsb' 0 4 = w :=
  BitVec.extractLsb'_append_eq_right

theorem rexByte_ne_opcode : ∀ w : BitVec 4, rexByte w ≠ opcodeByte := by decide

theorem legacyOfByte_rexByte : ∀ w : BitVec 4, legacyOfByte (rexByte w) = none := by decide

/-- The encoding of prefixes begins with the first legacy one. -/
theorem encode_cons (l : LegacyPrefix) (ls : List LegacyPrefix) (rex : Option (BitVec 4)) :
    Prefixes.encode ⟨l :: ls, rex⟩ = l.byte :: Prefixes.encode ⟨ls, rex⟩ := rfl

/-! ### Reading prefixes up to the opcode -/

/-- At the opcode there are none (R90). -/
theorem readPrefixes_opcode (m : Bool) (rest : List Byte) :
    readPrefixes m (opcodeByte :: rest) = .ok (⟨[], none⟩, rest) := by
  simp [readPrefixes]

/-- A legacy byte is the first of those read from it on (R90). -/
theorem readPrefixes_legacy {m : Bool} {bytes rest : List Byte} {p : Prefixes} (l : LegacyPrefix)
    (h : readPrefixes m bytes = .ok (p, rest)) :
    readPrefixes m (l.byte :: bytes) = .ok (⟨l :: p.legacy, p.rex⟩, rest) := by
  simp [readPrefixes, legacy_byte_ne_opcode, h]

/-- In 64-bit mode a REX byte stands immediately before the opcode (R92). -/
theorem readPrefixes_rex (w : BitVec 4) (rest : List Byte) :
    readPrefixes true (rexByte w :: opcodeByte :: rest) = .ok (⟨[], some w⟩, rest) := by
  simp [readPrefixes, readAfterRex, rexByte_ne_opcode, legacyOfByte_rexByte, Machine.isRexByte_rexByte]

/-- The encoding of prefixes that may stand in the context reads back as them. -/
theorem readPrefixes_encode {c : DecodeCtx} (p : Prefixes) (rest : List Byte) (h : rexAllowed c p = true) :
    readPrefixes c.mode64 (p.encode ++ opcodeByte :: rest) = .ok (p, rest) := by
  obtain ⟨legacy, rex⟩ := p
  induction legacy with
  | nil =>
    cases rex with
    | none => exact readPrefixes_opcode _ rest
    | some w =>
      have hm : c.mode64 = true := by simpa [rexAllowed] using h
      rw [hm]
      exact readPrefixes_rex w rest
  | cons l ls ih => exact readPrefixes_legacy l (ih h)

/-- What follows a REX byte that is read is the opcode (R92). -/
theorem readAfterRex_ok {r : Byte} {bytes rest : List Byte} {p : Prefixes} (h : readAfterRex r bytes = .ok (p, rest)) :
    p = ⟨[], some (r.extractLsb' 0 4)⟩ ∧ bytes = opcodeByte :: rest := by
  cases bytes with
  | nil => cases h
  | cons b bs =>
    by_cases hb : b = opcodeByte
    · rw [readAfterRex, if_pos hb] at h
      cases h
      exact ⟨rfl, by rw [hb]⟩
    · rw [readAfterRex, if_neg hb] at h
      cases h

/-- Prefix bytes that are read may stand in the context, and their encoding and the opcode are what was read. -/
theorem readPrefixes_ok {c : DecodeCtx} {bytes rest : List Byte} {p : Prefixes}
    (h : readPrefixes c.mode64 bytes = .ok (p, rest)) :
    rexAllowed c p = true ∧ bytes = p.encode ++ opcodeByte :: rest := by
  induction bytes generalizing p with
  | nil => cases h
  | cons b bs ih =>
    unfold readPrefixes at h
    split at h
    next hb =>
      cases h
      exact ⟨rfl, by rw [hb]; rfl⟩
    next =>
      split at h
      next l hl =>
        split at h
        next q rest' hq =>
          cases h
          obtain ⟨hrex, hbs⟩ := ih hq
          exact ⟨hrex, by rw [encode_cons, legacyOfByte_eq_some hl, hbs]; rfl⟩
        next => cases h
      next =>
        split at h
        next hrex =>
          obtain ⟨hm, hb⟩ := Bool.and_eq_true_iff.mp hrex
          obtain ⟨rfl, rfl⟩ := readAfterRex_ok h
          exact ⟨by simp [rexAllowed, hm], by simp [Prefixes.encode, rexByte_of_isRexByte hb]⟩
        next => split at h <;> cases h

/-! ### Decoding -/

/-- What decodes is exactly the encoding of a well-formed instruction, with the bytes after it (R90, R99, R100). -/
theorem decode_eq_ok_iff {c : DecodeCtx} {bytes rest : List Byte} {i : Instr} :
    decode c bytes = .ok (i, rest) ↔ i.wellFormed c = true ∧ bytes = encode i ++ rest := by
  constructor
  · intro h
    unfold decode at h
    split at h
    next p rest' hp =>
      cases h
      obtain ⟨hr, hbytes⟩ := readPrefixes_ok hp
      exact ⟨classify_wellFormed hr, by simp [encode, hbytes]⟩
    next => cases h
  · rintro ⟨hw, rfl⟩
    have hread : readPrefixes c.mode64 (encode i ++ rest) = .ok (i.prefixes, rest) := by
      simpa [encode] using readPrefixes_encode i.prefixes rest (rexAllowed_of_wellFormed hw)
    rw [decode, hread]
    simp only [classify_of_wellFormed hw]

/-- Settles O1: reading the prefixes gives them back, and they select the instruction. -/
theorem decodeInvertsEncode : Obligations.DecodeInvertsEncode :=
  fun _ _ _ h => decode_eq_ok_iff.mpr ⟨h, rfl⟩

/-- Settles O2: by induction on the bytes, what is read as prefixes is their encoding, and the row they select is
well-formed. -/
theorem decodeAcceptsOnlyEncodings : Obligations.DecodeAcceptsOnlyEncodings :=
  fun _ _ _ _ h => decode_eq_ok_iff.mp h

/-- Settles O3: twelve words, each run through the decoder. -/
theorem specEncodingsDecode : Obligations.SpecEncodingsDecode :=
  ⟨rfl, rfl, rfl, rfl, rfl, rfl, rfl, rfl, rfl, rfl, rfl, rfl⟩

/-- Outside 64-bit mode 48H is the opcode of another instruction (R95). -/
theorem readPrefixes_48 (bytes : List Byte) :
    readPrefixes false (0x48#8 :: bytes) = .error (.otherOpcode 0x48#8) := rfl

/-- Settles O4: IRETQ is well-formed in 64-bit mode only, and what decodes is well-formed. -/
theorem iretqDecodesOnlyIn64BitMode : Obligations.IretqDecodesOnlyIn64BitMode := by
  intro c bytes rest p hm
  constructor
  · intro h
    obtain ⟨hw, -⟩ := decode_eq_ok_iff.mp h
    have hlong : c.mode64 = true := (Bool.and_eq_true_iff.mp hw).2
    rw [hm] at hlong
    cases hlong
  · rw [decode, hm, readPrefixes_48]

end Sys2Proof
end

section
/-! PROOFS. One step (30_encoding.md R90, R101; 40_iret_common.md R126): the bytes a fetch reads, the mode they are
decoded in, and the illegal LOCK row (R96, R117). -/

namespace Sys2Proof.Machine

/-! ### LOCK -/

theorem byte_eq_lock_iff {l : LegacyPrefix} : l.byte = 0xF0#8 ↔ l = .lock := by
  cases l <;> decide

/-- LOCK among the prefixes is the byte F0H among theirs (30_encoding.md R96). -/
theorem hasLock_iff {p : Prefixes} : p.hasLock = true ↔ 0xF0#8 ∈ p.legacy.map LegacyPrefix.byte := by
  simp [Prefixes.hasLock, byte_eq_lock_iff]

/-- The illegal row gives `#UD` and leaves the state but for NMI_blocked, which NMI_UNBLOCK_ON_UD clears (R117). -/
theorem exec_lockIret {s : State} (p : Prefixes) (hv : s.vmxNonRoot = false) : exec (.lockIret p) s =
    .fault (.exception .ud { s with nmiBlocked := s.nmiBlocked && !s.params.nmiUnblockOnUd }) := by
  have hexec : exec (.lockIret p) s = execLockIret p s := rfl
  have hleft : (if s.params.nmiUnblockOnUd then unblockNmi s else s) =
      { s with nmiBlocked := s.nmiBlocked && !s.params.nmiUnblockOnUd } := by
    cases s.params.nmiUnblockOnUd <;> simp [unblockNmi]
  rw [hexec, execLockIret, if_neg (by simp [hv]), hleft, raise]

/-- Settles O8: F0H among the prefixes makes the illegal row well-formed, so its bytes decode to it. -/
theorem lockRaisesInvalidOpcode : Obligations.LockRaisesInvalidOpcode := by
  refine fun p s => ⟨fun c rest hlock hr => ?_, exec_lockIret p⟩
  have hw : (Instr.lockIret p).wellFormed c = true := by simp [Instr.wellFormed, hasLock_iff.mpr hlock, hr]
  refine decode_eq_ok_iff.mpr ⟨hw, ?_⟩
  simp [encode, Instr.prefixes, opcodeByte]

/-! ### The step -/

/-- A step executes what decodes from the bytes at CS:RIP (40_iret_common.md R126). -/
theorem step_of_decode {s : State} {i : Instr} {rest : List Byte}
    (h : decode (decodeCtx s) (fetchBytes s) = .ok (i, rest)) : step s = exec i s := by
  rw [step, h]

/-- The well-formed instruction that stands at CS:RIP is what a step executes (30_encoding.md R90). -/
theorem step_of_encode {s : State} {i : Instr} (hw : i.wellFormed (decodeCtx s) = true)
    (h : ∀ k (hk : k < (encode i).length), fetchByte s (s.rip + BitVec.ofNat 64 k) = some (encode i)[k]) :
    step s = exec i s :=
  step_of_decode (rest := []) (decode_eq_ok_iff.mpr ⟨hw, by rw [fetchBytes_encode hw h, List.append_nil]⟩)

/-! ### The byte at a code offset -/

/-- The linear address of a code offset, in numbers (log 11). -/
theorem codeLinear_eq (s : State) (ip : Word) : codeLinear s ip =
    if modeOf s = .long64 then ip else BitVec.ofNat 64 ((s.cs.base.toNat + ip.toNat) % 2 ^ 32) := by
  unfold codeLinear
  refine ite_congr rfl (fun _ => rfl) fun _ => BitVec.eq_of_toNat_eq ?_
  rw [lowPart_toNat, BitVec.toNat_add, BitVec.toNat_ofNat, OpSize.bytes]
  omega

/-- Which code offsets can be fetched (log 17). -/
theorem codeInBounds_iff {s : State} {ip : Word} : codeInBounds s ip = true ↔
    if modeOf s = .long64 then canonical s ip = true else ip.toNat ≤ s.cs.limit.toNat := by
  unfold codeInBounds
  split
  · rfl
  · exact decide_eq_true_iff

theorem fetchByte_of_outside {s : State} {ip : Word} (h : ¬ codeInBounds s ip = true) : fetchByte s ip = none := by
  rw [fetchByte, if_neg h]

theorem fetchByte_of_load {s : State} {ip : Word} {b : Byte} (h : codeInBounds s ip = true)
    (hb : loadByte s (.fetch s.cpl) (codeLinear s ip) = .ok b) : fetchByte s ip = some b := by
  rw [fetchByte, if_pos h, hb]

/-- A byte whose fetch access fails cannot be fetched (log 17). -/
theorem fetchByte_of_error {s : State} {ip : Word} {e : Stop}
    (he : loadByte s (.fetch s.cpl) (codeLinear s ip) = .error e) : fetchByte s ip = none := by
  rw [fetchByte, he]
  exact ite_self none

/-! ### The mode, in bits -/

/-- The context of decoding is 64-bit mode or not, and CS.DB (30_encoding.md R101). -/
theorem decodeCtx_eq (s : State) : decodeCtx s = ⟨decide (modeOf s = .long64), s.cs.DB⟩ := by
  unfold decodeCtx
  cases modeOf s <;> rfl

/-- The mode is the first row of R41 whose bits are met. -/
theorem modeOf_eq (s : State) : modeOf s =
    match s.cr0PE, s.eferLMA, s.eflags.VM, s.cs.L with
    | false, _, _, _ => .real
    | true, false, true, _ => .v8086
    | true, false, false, _ => .protectedMode
    | true, true, _, true => .long64
    | true, true, _, false => .compat := by
  unfold modeOf
  cases s.cr0PE <;> cases s.eferLMA <;> cases s.eflags.VM <;> cases s.cs.L <;> rfl

/-- Settles O6: what a fetch reads decodes to the instruction that stands there, and the rest is the fetch of one byte
and the mode, in numbers and bits. -/
theorem stepRunsTheDecodedInstruction : Obligations.StepRunsTheDecodedInstruction := by
  intro s
  refine ⟨fun i => ⟨fun rest => step_of_decode, step_of_encode⟩, fun ip => ?_, decodeCtx_eq s, ?_⟩
  · intro linear inside
    have hlinear : linear = codeLinear s ip := (codeLinear_eq s ip).symm
    have hinside : inside ↔ codeInBounds s ip = true := codeInBounds_iff.symm
    rw [hlinear, hinside]
    exact ⟨fetchByte_of_outside, fun b => fetchByte_of_load, fun e => fetchByte_of_error⟩
  · rw [modeOf_eq]
    split <;> simp [*]

end Sys2Proof.Machine
end

section
/-! PROOFS. NMI unblocking (40_iret_common.md R117): every execution but LOCK's `#UD` ends with NMIs unblocked. -/

namespace Sys2Proof.Machine

/-- NMIs are unblocked in the next state, or in the state that a fault leaves; a refusal leaves none. -/
def unblocksNmi : Out → Prop
  | .next t => t.nmiBlocked = false
  | .fault (.exception _ left) => left.nmiBlocked = false
  | .refused _ => True

theorem unblocksNmi_raise (x : Exception) (s : State) : unblocksNmi (raise x (unblockNmi s)) := rfl

/-- A path ends retired or with its exception raised, either way with NMIs unblocked. -/
theorem unblocksNmi_finish (s : State) (c : Check State) : unblocksNmi (finish s c) := by
  unfold finish
  split
  · rfl
  · exact unblocksNmi_raise _ s
  · trivial

/-- The late `#GP(0)` of a task return unblocks NMIs in the new task. -/
theorem unblocksNmi_endTaskReturn (t : State) : unblocksNmi (endTaskReturn t) := by
  unfold endTaskReturn
  split
  · rfl
  · exact unblocksNmi_raise gp0 t

theorem unblocksNmi_switchTo (s : State) (answer : Option SwitchResult) : unblocksNmi (switchTo s answer) := by
  unfold switchTo
  split
  · trivial
  · exact unblocksNmi_raise _ s
  · split
    · exact unblocksNmi_endTaskReturn _
    · exact unblocksNmi_raise _ s
    · trivial

theorem unblocksNmi_taskReturn (len : Nat) (s : State) : unblocksNmi (taskReturn len s) := by
  unfold taskReturn
  split
  · exact unblocksNmi_switchTo s _
  · exact unblocksNmi_raise _ s
  · trivial

/-- The skeleton of an execution is refused, or finishes a path, or is a task return. -/
theorem unblocksNmi_iretExec (n : OpSize) (len : Nat) (s : State) : unblocksNmi (iretExec n len s) := by
  unfold iretExec
  split
  · trivial
  · cases dispatch s with
    | realAddress => exact unblocksNmi_finish s _
    | fromV86 =>
      dsimp only
      split
      · trivial
      · exact unblocksNmi_finish s _
    | protectedMode =>
      dsimp only
      split
      · exact unblocksNmi_taskReturn len s
      · exact unblocksNmi_finish s _
    | ia32e => exact unblocksNmi_finish s _

/-- Every form with an operand size unblocks NMIs, one that faults too (40_iret_common.md R117). -/
theorem unblocksNmi_exec {i : Instr} {n : OpSize} (hi : i.opSize = some n) (s : State) : unblocksNmi (exec i s) := by
  rw [exec_eq hi]
  split
  · trivial
  · exact unblocksNmi_iretExec n i.length s

/-- The form without an operand size is the illegal one with LOCK (30_encoding.md R96). -/
theorem opSize_eq_none {i : Instr} (h : i.opSize = none) : ∃ p, i = .lockIret p := by
  cases i with
  | lockIret p => exact ⟨p, rfl⟩
  | _ => cases h

/-- LOCK's `#UD` leaves NMI_blocked as the parameter NMI_UNBLOCK_ON_UD says (40_iret_common.md R117). -/
theorem lockIret_fault_nmiBlocked {p : Prefixes} {s left : State} {x : Exception}
    (h : exec (.lockIret p) s = .fault (.exception x left)) :
    left.nmiBlocked = (s.nmiBlocked && !s.params.nmiUnblockOnUd) := by
  cases hv : s.vmxNonRoot with
  | true =>
    have hexec : exec (.lockIret p) s = execLockIret p s := rfl
    rw [hexec, execLockIret, if_pos hv] at h
    cases h
  | false =>
    rw [exec_lockIret p hv] at h
    cases h
    rfl

/-- Settles O27: every part of an execution with an operand size unblocks NMIs, and what has none is LOCK. -/
theorem everyExecutionUnblocksNmi : Obligations.EveryExecutionUnblocksNmi := by
  refine fun i s => ⟨fun t h => ?_, fun n x left hi h => ?_, fun x left hi h => ?_⟩
  · obtain ⟨n, hi⟩ := exec_next_opSize h
    have hunblocks := unblocksNmi_exec hi s
    rwa [h] at hunblocks
  · have hunblocks := unblocksNmi_exec hi s
    rwa [h] at hunblocks
  · obtain ⟨p, rfl⟩ := opSize_eq_none hi
    exact lockIret_fault_nmiBlocked h

end Sys2Proof.Machine
end

section
/-! PROOFS. The flags that an execution commits (40_iret_common.md R110, R111, R121, R122): which fields each update
writes, and which update each mode makes. -/

namespace Sys2Proof.Machine

/-! ### The updates, by field -/

/-- `G_HIGH`, where the image is wide enough to have it (10_state.md R25). -/
theorem putHigh_of_size (f img : Eflags) (n : OpSize) :
    (if n.wideImage then f.putHigh img else f) =
      { f with
        RF := if n = .w16 then f.RF else img.RF
        AC := if n = .w16 then f.AC else img.AC
        ID := if n = .w16 then f.ID else img.ID } := by
  cases n <;> rfl

/-- IF, where CPL is at most IOPL. -/
theorem putIF_of_privilege (f img : Eflags) (cpl iopl : BitVec 2) :
    (if cpl ≤ iopl then f.putIF img else f) = { f with IF := if cpl ≤ iopl then img.IF else f.IF } := by
  split <;> rfl

/-- IOPL at CPL 0, and VIF and VIP where the image has them too. -/
theorem putSystem_of_privilege (f img : Eflags) (n : OpSize) (cpl : BitVec 2) :
    (if cpl = 0#2 then if n.wideImage then (f.putIOPL img).putVirtual img else f.putIOPL img else f) =
      { f with
        IOPL := if cpl = 0#2 then img.IOPL else f.IOPL
        VIF := if cpl = 0#2 ∧ n ≠ .w16 then img.VIF else f.VIF
        VIP := if cpl = 0#2 ∧ n ≠ .w16 then img.VIP else f.VIP } := by
  by_cases hcpl : cpl = 0#2
  · cases n <;> simp [hcpl, OpSize.wideImage, Eflags.putIOPL, Eflags.putVirtual]
  · simp [hcpl]

/-- `WriteFlagsProt`, every field (40_iret_common.md R122). -/
theorem writeFlagsProt_eq (f img : Eflags) (n : OpSize) (cpl : BitVec 2) :
    writeFlagsProt f img n cpl =
      { CF := img.CF, PF := img.PF, AF := img.AF, ZF := img.ZF, SF := img.SF, TF := img.TF
        IF := if cpl ≤ f.IOPL then img.IF else f.IF
        DF := img.DF, OF := img.OF
        IOPL := if cpl = 0#2 then img.IOPL else f.IOPL
        NT := img.NT
        RF := if n = .w16 then f.RF else img.RF
        VM := f.VM
        AC := if n = .w16 then f.AC else img.AC
        VIF := if cpl = 0#2 ∧ n ≠ .w16 then img.VIF else f.VIF
        VIP := if cpl = 0#2 ∧ n ≠ .w16 then img.VIP else f.VIP
        ID := if n = .w16 then f.ID else img.ID } := by
  unfold writeFlagsProt
  simp only [putHigh_of_size, putIF_of_privilege, putSystem_of_privilege]
  rfl

/-- Settles O41: the image is read bit by bit by definition, and `WriteFlagsProt` by the groups it writes. -/
theorem protectedFlagWriteByField : Obligations.ProtectedFlagWriteByField :=
  ⟨fun _ => rfl, writeFlagsProt_eq⟩

/-- The six fields above bit 15 are the same (10_state.md R23). -/
def sameHighFlags (f g : Eflags) : Prop :=
  g.RF = f.RF ∧ g.AC = f.AC ∧ g.ID = f.ID ∧ g.VM = f.VM ∧ g.VIF = f.VIF ∧ g.VIP = f.VIP

theorem sameHighFlags_writeFlagsReal (f img : Eflags) : sameHighFlags f (writeFlagsReal f img .w16) :=
  ⟨rfl, rfl, rfl, rfl, rfl, rfl⟩

theorem sameHighFlags_writeFlagsV86 (f img : Eflags) : sameHighFlags f (writeFlagsV86 f img .w16) :=
  ⟨rfl, rfl, rfl, rfl, rfl, rfl⟩

theorem sameHighFlags_writeFlagsProt (f img : Eflags) (cpl : BitVec 2) :
    sameHighFlags f (writeFlagsProt f img .w16 cpl) := by
  rw [writeFlagsProt_eq]
  simp [sameHighFlags]

/-! ### The update of each mode -/

/-- The flags and CPL that a path commits: each mode updates EFLAGS from the popped image in its own way, and only a
return to virtual-8086 mode takes all of them from it (40_iret_common.md R123; 42 R169). -/
theorem pathOf_eflags {n : OpSize} {s t : State} (h : pathOf n s = .ok t) : ∃ f, popFrame s n = .ok f ∧
    ((modeOf s = .real ∧ t.eflags = writeFlagsReal s.eflags (Eflags.ofImage f.flags) n)
    ∨ (modeOf s = .v8086 ∧ t.eflags = writeFlagsV86 s.eflags (Eflags.ofImage f.flags) n)
    ∨ (modeOf s = .protectedMode ∧ returnsToV86 s f = true ∧ t.eflags = Eflags.ofImage f.flags ∧ t.cpl = 3#2)
    ∨ (dispatch s ≠ .realAddress ∧ dispatch s ≠ .fromV86
      ∧ t.eflags = writeFlagsProt s.eflags (Eflags.ofImage f.flags) n s.cpl)) := by
  obtain ⟨f, hf, ⟨hm, -, rfl⟩ | ⟨hm, -, -, rfl⟩ | ⟨hm, hv, v, m, -, -, rfl⟩ | ⟨hreal, hv86, -, c, -, hreturn⟩⟩ :=
    pathOf_cases h
  · exact ⟨f, hf, .inl ⟨hm, rfl⟩⟩
  · exact ⟨f, hf, .inr (.inl ⟨hm, rfl⟩)⟩
  · exact ⟨f, hf, .inr (.inr (.inl ⟨hm, hv, rfl, rfl⟩))⟩
  · refine ⟨f, hf, .inr (.inr (.inr ⟨hreal, hv86, ?_⟩))⟩
    obtain ⟨-, st, q, sh, m, -, -, -, -, rfl⟩ | ⟨-, -, sh, m, -, -, rfl⟩ | ⟨-, -, st, q, sh, m, -, -, -, -, rfl⟩ :=
      hreturn
    · rfl
    · rfl
    · rfl

/-- A return to virtual-8086 mode runs at CPL 0 with bit 17 of the image set (42 R162). -/
theorem returnsToV86_iff {s : State} {f : Frame} :
    returnsToV86 s f = true ↔ f.flags.getLsbD 17 = true ∧ s.cpl = 0#2 := by
  unfold returnsToV86
  rw [Bool.and_eq_true, beq_iff_eq]
  rfl

/-- The image of a 16-bit frame has no bit 17, so a 16-bit return never goes to virtual-8086 mode (42 R162). -/
theorem returnsToV86_w16 {s : State} {f : Frame} (h : popFrame s .w16 = .ok f) : returnsToV86 s f = false := by
  obtain ⟨ip, cs, fl, -, -, hfl, rfl⟩ := popFrame_ok.mp h
  have hbit : fl.getLsbD 17 = false :=
    Nat.testBit_lt_two_pow (lt_trans (popAt_lt hfl) (Nat.pow_lt_pow_right (by decide) (by decide)))
  rw [Bool.eq_false_iff, ne_eq, returnsToV86_iff, hbit]
  exact fun h => Bool.false_ne_true h.1

/-- Settles O44: no update writes a high field at size 16, and no 16-bit return goes to virtual-8086 mode. -/
theorem sixteenBitReturnKeepsHighFlags : Obligations.SixteenBitReturnKeepsHighFlags := by
  intro i s t hi hn h
  obtain ⟨u, hu, rfl⟩ := exec_next hi hn h
  obtain ⟨f, hf, ⟨-, hflags⟩ | ⟨-, hflags⟩ | ⟨-, hv, -⟩ | ⟨-, -, hflags⟩⟩ := pathOf_eflags hu
  · rw [retire_eflags, hflags]
    exact sameHighFlags_writeFlagsReal _ _
  · rw [retire_eflags, hflags]
    exact sameHighFlags_writeFlagsV86 _ _
  · rw [returnsToV86_w16 hf] at hv
    cases hv
  · rw [retire_eflags, hflags]
    exact sameHighFlags_writeFlagsProt _ _ _

/-! ### Entering virtual-8086 mode -/

/-- A path that changes VM is a return to virtual-8086 mode (40_iret_common.md R111, 42 R162). -/
theorem pathOf_VM_ne {n : OpSize} {s t : State} (h : pathOf n s = .ok t) (hvm : t.eflags.VM ≠ s.eflags.VM) :
    modeOf s = .protectedMode ∧ t.eflags.VM = true ∧ t.cpl = 3#2
    ∧ ∃ f, popFrame s n = .ok f ∧ returnsToV86 s f = true := by
  obtain ⟨f, hf, ⟨-, hflags⟩ | ⟨-, hflags⟩ | ⟨hm, hv, hflags, hcpl⟩ | ⟨-, -, hflags⟩⟩ := pathOf_eflags h
  · exact absurd (by rw [hflags, writeFlagsReal_VM]) hvm
  · exact absurd (by rw [hflags, writeFlagsV86_VM]) hvm
  · refine ⟨hm, ?_, hcpl, f, hf, hv⟩
    rw [hflags]
    exact (returnsToV86_iff.mp hv).1
  · exact absurd (by rw [hflags, writeFlagsProt_VM]) hvm

/-- IRETQ completes in 64-bit mode only (30_encoding.md R95). -/
theorem exec_next_w64 {i : Instr} {s t : State} (hi : i.opSize = some .w64) (h : exec i s = .next t) :
    modeOf s = .long64 := by
  rw [exec_eq hi] at h
  split at h
  · cases h
  next hq => exact not_not.mp fun hm => hq ⟨rfl, hm⟩

/-- The state that such a path ends in is one of virtual-8086 mode: the control bits are those of protected mode. -/
theorem modeOf_v8086_of_VM {s t : State} (hm : modeOf s = .protectedMode) (h : sameControl s t)
    (hvm : t.eflags.VM = true) : modeOf t = .v8086 := by
  obtain ⟨-, hpe', -, -, -, hlma', -⟩ := h
  have hd : dispatch s = .protectedMode := by rw [dispatch_eq, hm]
  obtain ⟨hpe, hlma, -⟩ := dispatch_eq_protectedMode.mp hd
  rw [modeOf_eq, hpe', hpe, hlma', hlma, hvm]

/-- Settles O45: the path that changes VM is the return to virtual-8086 mode, which a 16-bit image cannot ask for and
IRETQ, in 64-bit mode, never takes. -/
theorem virtualFlagSetOnlyByReturnToVirtual8086 : Obligations.VirtualFlagSetOnlyByReturnToVirtual8086 := by
  intro i n s t hi hn h hvm
  obtain ⟨u, hu, rfl⟩ := exec_next hi hn h
  obtain ⟨hm, hset, hcpl, f, hf, hv⟩ := pathOf_VM_ne hu hvm
  have hmode : modeOf (retire u) = .v8086 := modeOf_v8086_of_VM hm (pathOf_sameSystem hu).1 hset
  cases n with
  | w16 =>
    rw [returnsToV86_w16 hf] at hv
    cases hv
  | w32 =>
    obtain ⟨hbit, hcpl0⟩ := returnsToV86_iff.mp hv
    obtain ⟨ip, cs, fl, -, -, hfl, rfl⟩ := popFrame_ok.mp hf
    exact ⟨rfl, hm, hcpl0, hcpl, hmode, fl, hfl, hbit⟩
  | w64 =>
    rw [exec_next_w64 hi h] at hm
    cases hm

end Sys2Proof.Machine
end

section
/-! PROOFS. Stack reads (20_memory.md R62 to R66): their checks in numbers and in order, and the first failing pop of an
execution (60_exceptions.md R287, R288). -/

namespace Sys2Proof.Machine

/-! ### Canonical addresses -/

/-- A word is the sign extension of its low `w` bits when it lies in the low or in the high range of that width; the two
widths of R65. -/
theorem signExtend_setWidth_eq_iff {w : Nat} (hw : w = 48 ∨ w = 57) (a : Word) :
    (a.setWidth w).signExtend 64 = a ↔ a.toNat < 2 ^ (w - 1) ∨ 2 ^ 64 - 2 ^ (w - 1) ≤ a.toNat := by
  have ha : a.toNat < 2 ^ 64 := a.isLt
  rw [← BitVec.toNat_inj, BitVec.toNat_signExtend, BitVec.msb_eq_decide]
  obtain rfl | rfl := hw
  · simp only [BitVec.toNat_setWidth, decide_eq_true_eq]
    split <;> omega
  · simp only [BitVec.toNat_setWidth, decide_eq_true_eq]
    split <;> omega

theorem canonicalIn_b48 (a : Word) : canonicalIn .b48 a = true ↔ a.toNat < 2 ^ 47 ∨ 2 ^ 64 - 2 ^ 47 ≤ a.toNat :=
  beq_iff_eq.trans (signExtend_setWidth_eq_iff (.inl rfl) a)

theorem canonicalIn_b57 (a : Word) : canonicalIn .b57 a = true ↔ a.toNat < 2 ^ 56 ∨ 2 ^ 64 - 2 ^ 56 ≤ a.toNat :=
  beq_iff_eq.trans (signExtend_setWidth_eq_iff (.inr rfl) a)

/-! ### Bounds, linear address and alignment -/

theorem stackInBounds_long64 {s : State} (hm : modeOf s = .long64) (off : Word) (n : Nat) :
    stackInBounds s off n = true ↔ canonical s off = true ∧ canonical s (off + BitVec.ofNat 64 (n - 1)) = true := by
  unfold stackInBounds
  rw [if_pos hm, Bool.and_eq_true]

/-- The limit of a segment, of an expand-down one too (20_memory.md R64). -/
theorem withinLimit_iff {seg : SegReg} {off n : Nat} : withinLimit seg off n = true ↔
    if seg.code = false ∧ seg.expandDown = true then
      seg.limit.toNat < off ∧ off + n - 1 ≤ (if seg.DB = true then 0xFFFFFFFF else 0xFFFF)
    else off + n - 1 ≤ seg.limit.toNat := by
  unfold withinLimit
  simp only [Bool.and_eq_true, Bool.not_eq_true']
  split
  · rw [Bool.and_eq_true, decide_eq_true_eq, decide_eq_true_eq]
  · exact decide_eq_true_iff

/-- The top of the offset space, outside 64-bit mode (20_memory.md R63). -/
theorem offsetSpace_legacy {s : State} (hm : modeOf s ≠ .long64) :
    2 ^ (8 * (stackAddrSize s).bytes) = if s.ss.DB = true then 2 ^ 32 else 2 ^ 16 := by
  rw [stackAddrSize_legacy hm]
  split <;> rfl

theorem stackInBounds_legacy {s : State} (hm : modeOf s ≠ .long64) (off : Word) (n : Nat) :
    stackInBounds s off n = true ↔
      (if s.ss.code = false ∧ s.ss.expandDown = true then
        s.ss.limit.toNat < off.toNat ∧ off.toNat + n - 1 ≤ (if s.ss.DB = true then 0xFFFFFFFF else 0xFFFF)
      else off.toNat + n - 1 ≤ s.ss.limit.toNat)
      ∧ off.toNat + n ≤ (if s.ss.DB = true then 2 ^ 32 else 2 ^ 16) := by
  unfold stackInBounds stackWithin
  rw [if_neg hm, Bool.and_eq_true, withinLimit_iff, decide_eq_true_eq, offsetSpace_legacy hm]

theorem stackLinear_long64 {s : State} (hm : modeOf s = .long64) (off : Word) : stackLinear s off = off := by
  unfold stackLinear
  rw [if_pos hm]

theorem stackLinear_legacy {s : State} (hm : modeOf s ≠ .long64) (off : Word) :
    (stackLinear s off).toNat = (s.ss.base.toNat + off.toNat) % 2 ^ 32 := by
  unfold stackLinear
  rw [if_neg hm, lowPart_toNat, BitVec.toNat_add, OpSize.bytes, Nat.mod_mod_of_dvd _ (Nat.pow_dvd_pow 2 (by decide))]

/-- A misaligned item, where alignment is checked (20_memory.md R66). -/
theorem stackAligned_eq_false {s : State} {off : Word} {n : Nat} : stackAligned s off n = false ↔
    s.cr0PE = true ∧ s.cpl = 3#2 ∧ s.cr0AM = true ∧ s.eflags.AC = true ∧ (stackLinear s off).toNat % n ≠ 0 := by
  unfold stackAligned alignmentCheckApplies
  simp only [Bool.or_eq_false_iff, Bool.not_eq_false', Bool.and_eq_true, beq_iff_eq, beq_eq_false_iff_ne, and_assoc]

/-! ### The order of the checks -/

/-- An item out of bounds is `#SS` (20_memory.md R62, 41 R143). -/
theorem stackRead_of_outside {s : State} {off : Word} {n : Nat} (h : stackInBounds s off n = false) :
    stackRead s off n = .error (.exc (if s.cr0PE then .ss (some 0#32) else .ss none)) := by
  unfold stackRead
  rw [h]
  rfl

/-- Within its bounds a misaligned item is `#AC` (20_memory.md R66). -/
theorem stackRead_of_misaligned {s : State} {off : Word} {n : Nat} (hb : stackInBounds s off n = true)
    (ha : stackAligned s off n = false) : stackRead s off n = .error (.exc .ac) := by
  unfold stackRead
  rw [hb, ha]
  rfl

/-- After both checks the item is read, at the current CPL (20_memory.md R62). -/
theorem stackRead_of_checked {s : State} {off : Word} {n : Nat} (hb : stackInBounds s off n = true)
    (ha : stackAligned s off n = true) : stackRead s off n = loadV s (.dataRead s.cpl) (stackLinear s off) n := by
  unfold stackRead
  rw [hb, ha]
  rfl

/-! ### The first failing pop -/

/-- A frame of three items that answer. -/
theorem popFrame_of_pops {s : State} {n : OpSize} {ip cs fl : Word} (h0 : popAt s n 0 = .ok ip)
    (h1 : popAt s n 1 = .ok cs) (h2 : popAt s n 2 = .ok fl) : popFrame s n = .ok ⟨ip, cs.setWidth 16, fl⟩ :=
  popFrame_ok.mpr ⟨ip, cs, fl, h0, h1, h2, rfl⟩

/-- A failing pop of a stack switch stops a return that pops SS (44 R211, 43 R193). -/
theorem protectedReturn_stack_error {n : OpSize} {s : State} {f : Frame} {newCS : LoadedSeg} {e : Stop}
    (hc : returnCSCheck s f.cs = .ok newCS) (hp : s.cpl < selRpl f.cs ∨ modeOf s = .long64)
    (h : popStack s n = .error e) : protectedReturn n s f = .error e := by
  obtain ⟨rest, hr⟩ := protectedReturn_switch (n := n) hc hp
  rw [hr, h, check_error_bind]

/-- The CET gate in bits (42 R166). -/
theorem v86CetGate_eq_false {s : State} : v86CetGate s = false ↔
    ¬ (s.cr4CET = true ∧ (s.uCet.getLsbD 2 = true ∨ s.uCet.getLsbD 0 = true)) := by
  rw [← Bool.not_eq_true, v86CetGate, Bool.and_eq_true, Bool.or_eq_true]
  rfl

/-- A failing pop of the six further ones stops a return to virtual-8086 mode that has passed its two gates (42 R166 to
R168). -/
theorem returnToVirtual8086_pop_error {s : State} {f : Frame} {e : Stop} (hgate : v86CetGate s = false)
    (hip : f.ip.toNat ≤ 0xFFFF) (h : popV86Items s = .error e) : returnToVirtual8086 s f = .error e := by
  unfold returnToVirtual8086
  rw [hgate, ipWithinLimit_v86.mpr hip, h]
  rfl

/-- The modes of a protected-style return (40_iret_common.md R114). -/
theorem modeOf_protectedStyle {s : State} (hreal : modeOf s ≠ .real) (hv86 : modeOf s ≠ .v8086) :
    modeOf s = .protectedMode ∨ modeOf s = .compat ∨ modeOf s = .long64 := by
  cases hm : modeOf s with
  | real => exact absurd hm hreal
  | v8086 => exact absurd hm hv86
  | protectedMode => exact .inl rfl
  | compat => exact .inr (.inl rfl)
  | long64 => exact .inr (.inr rfl)

/-- The path of protected mode whose image asks for virtual-8086 mode (42 R162). -/
theorem pathOf_returnToVirtual8086 {s : State} {f : Frame} {n : OpSize} (hm : modeOf s = .protectedMode)
    (hf : popFrame s n = .ok f) (hv : returnsToV86 s f = true) : pathOf n s = returnToVirtual8086 s f := by
  have hd : dispatch s = .protectedMode := by rw [dispatch_eq, hm]
  unfold pathOf
  rw [hd]
  dsimp only
  unfold protectedMode
  rw [hf, check_ok_bind, if_pos hv]

/-- What the return has found before a pop beyond the first three: it switches stacks, the CS it read being good, or it
goes to virtual-8086 mode, its two gates passed (44 R211, 43 R193; 42 R166 to R168). -/
def popsFurther (n : OpSize) (s : State) (k : Nat) : Prop :=
  (k < 5 ∧ ∃ cs fl newCS, popAt s n 1 = .ok cs ∧ popAt s n 2 = .ok fl
    ∧ modeOf s ≠ .real ∧ modeOf s ≠ .v8086
    ∧ (modeOf s = .protectedMode → fl.getLsbD 17 = false ∨ s.cpl ≠ 0#2)
    ∧ returnCSCheck s (cs.setWidth 16) = .ok newCS
    ∧ (s.cpl < selRpl (cs.setWidth 16) ∨ modeOf s = .long64))
  ∨ (k < 9 ∧ n = .w32 ∧ modeOf s = .protectedMode ∧ s.cpl = 0#2 ∧ ∃ ip fl, popAt s n 0 = .ok ip
    ∧ popAt s n 2 = .ok fl ∧ fl.getLsbD 17 = true ∧ ip.toNat ≤ 0xFFFF
    ∧ ¬ (s.cr4CET = true ∧ (s.uCet.getLsbD 2 = true ∨ s.uCet.getLsbD 0 = true)))

/-- The first failing pop beyond the first three stops the path. -/
theorem pathOf_further_pop_error {n : OpSize} {s : State} {k : Nat} {e : Stop}
    (hn : modeOf s = .protectedMode ∨ modeOf s = .compat ∨ modeOf s = .long64 → s.eflags.NT = false) (hk : 3 ≤ k)
    (hj : ∀ j, j < k → ∃ v, popAt s n j = .ok v) (h : popAt s n k = .error e) (hp : popsFurther n s k) :
    pathOf n s = .error e := by
  obtain ⟨hk5, cs, fl, newCS, h1, h2, hreal, hv86, himage, hc, hswitch⟩
    | ⟨hk9, rfl, hm, hcpl, ip, fl, h0, h2, hbit, hip, hgate⟩ := hp
  · obtain ⟨ip, h0⟩ := hj 0 (by omega)
    have hnt : s.eflags.NT = false := hn (modeOf_protectedStyle hreal hv86)
    have hto : modeOf s = .protectedMode → returnsToV86 s ⟨ip, cs.setWidth 16, fl⟩ = false := fun hm =>
      Bool.and_eq_false_iff.mpr ((himage hm).imp id beq_eq_false_iff_ne.mpr)
    rw [pathOf_protectedReturn hreal hv86 hnt (popFrame_of_pops h0 h1 h2) hto]
    exact protectedReturn_stack_error hc hswitch (popStack_error hk hk5 hj h)
  · obtain ⟨cs, h1⟩ := hj 1 (by omega)
    rw [pathOf_returnToVirtual8086 hm (popFrame_of_pops h0 h1 h2) (returnsToV86_iff.mpr ⟨hbit, hcpl⟩)]
    exact returnToVirtual8086_pop_error (v86CetGate_eq_false.mpr hgate) hip (popV86Items_error hk hk9 hj h)

/-- The first failing pop, of the first three or beyond, stops the path of every mode, the gates before it passed (20
R287, 60 R288). -/
theorem pathOf_pop_error {n : OpSize} {s : State} {k : Nat} {e : Stop} (hi : modeOf s = .v8086 → s.eflags.IOPL = 3#2)
    (hn : modeOf s = .protectedMode ∨ modeOf s = .compat ∨ modeOf s = .long64 → s.eflags.NT = false)
    (hj : ∀ j, j < k → ∃ v, popAt s n j = .ok v) (h : popAt s n k = .error e) (hp : k < 3 ∨ popsFurther n s k) :
    pathOf n s = .error e := by
  by_cases hk : k < 3
  · exact pathOf_frame_error hi (fun hm => hn (.inr hm)) (popFrame_error hk hj h)
  · exact pathOf_further_pop_error hn (Nat.not_lt.mp hk) hj h (hp.resolve_left hk)

/-- Settles O38: the bounds, the linear address and the alignment in numbers, the three checks in their order, and the
path stopped by its first failing pop. -/
theorem stackReadChecksInOrder : Obligations.StackReadChecksInOrder := by
  intro s bits
  refine ⟨fun n k => rfl, fun a => ?_, fun off n => ⟨fun hm => stackInBounds_long64 hm off n,
    fun hm => stackInBounds_legacy hm off n, fun hm => stackLinear_long64 hm off, fun hm => stackLinear_legacy hm off,
    stackAligned_eq_false, stackRead_of_outside, stackRead_of_misaligned, stackRead_of_checked⟩,
    fun i n k x hi hq hv hv86 hn hj h hp => ?_⟩
  · unfold canonical bits
    cases s.params.addressBits with
    | b48 => exact canonicalIn_b48 a
    | b57 => exact canonicalIn_b57 a
  · exact exec_fault_of hi hq hv (fun hm => (hv86 hm).1) (fun hm => hn (.inl hm))
      (pathOf_pop_error (fun hm => (hv86 hm).2) hn hj h hp)

end Sys2Proof.Machine
end

section
/-! PROOFS. IRETQ without CET (40_iret_common.md R112; 44 R215, R217, R219): a protected-style return that stores
nothing, and what it commits. -/

namespace Sys2Proof.Machine

/-! ### Returns that store nothing -/

/-- A load from a descriptor whose accessed bit is set where the write-back is on marks nothing (20_memory.md R70). -/
theorem loadSegment_mark_of_accessed {s : State} {sel : Sel} {d : Word}
    (h : s.params.descAccessedWriteback = true → d.getLsbD 40 = true) : (loadSegment s sel d).mark = none := by
  refine loadSegment_mark_none fun ⟨hwriteback, hclear⟩ => ?_
  rw [h hwriteback] at hclear
  cases hclear

/-- Without CR4.CET no level has a shadow stack (45 R250). -/
theorem shadowStackEnabled_of_cetOff {s : State} (h : s.cr4CET = false) (cpl : BitVec 2) :
    shadowStackEnabled s cpl = false := by
  unfold shadowStackEnabled
  rw [h, Bool.and_false]
  rfl

/-- A return to the same level then keeps SSP and frees no token (45 R257). -/
theorem shadowSameChecks_of_cetOff {s : State} (h : s.cr4CET = false) (cs : Sel) (newCS : SegReg) (ip : Word) :
    shadowSameChecks s cs newCS ip = .ok ⟨s.ssp, none⟩ := by
  unfold shadowSameChecks
  rw [shadowStackEnabled_of_cetOff h]
  rfl

/-- So does a return to an outer level (45 R254). -/
theorem shadowOuterChecks_of_cetOff {s : State} (h : s.cr4CET = false) (rpl : BitVec 2) (cs : Sel) (newCS : SegReg)
    (ip : Word) : shadowOuterChecks s rpl cs newCS ip = .ok ⟨s.ssp, none⟩ := by
  unfold shadowOuterChecks outerFrame
  rw [shadowStackEnabled_of_cetOff h, shadowStackEnabled_of_cetOff h]
  rfl

section
variable {n : OpSize} {s : State} {f : Frame} {newCS newSS : LoadedSeg} {st : StackItems}
  (hc : returnCSCheck s f.cs = .ok newCS) (hst : popStack s n = .ok st)
  (hss : returnSSCheck s st.ss (selRpl f.cs) newCS.seg = .ok newSS) (hip : ipAccepted s newCS.seg f.ip = true)
  (hcet : s.cr4CET = false) (hcsMark : newCS.mark = none) (hssMark : newSS.mark = none)
include hc hst hss hip hcet hcsMark hssMark

/-- A return to an outer level without CET, its accessed bits set, only commits registers (44 R215). -/
theorem protectedReturn_outer_of_cetOff (hlt : s.cpl < selRpl f.cs) :
    protectedReturn n s f = .ok (commitOuter s n f st newCS.seg newSS.seg s.ssp) := by
  have hreturn : returnToOuter n s f newCS = .ok (commitOuter s n f st newCS.seg newSS.seg s.ssp) :=
    returnToOuter_ok.mpr ⟨st, newSS, _, s, hst, hss, hip, shadowOuterChecks_of_cetOff hcet _ _ _ _,
      by rw [hcsMark, hssMark, commitStores_none], rfl⟩
  unfold protectedReturn
  rw [hc, check_ok_bind, if_pos hlt, hreturn]

/-- So does one to the same level begun in 64-bit mode (43 R193, 44 R219). -/
theorem protectedReturn_same_of_cetOff (hlt : ¬ s.cpl < selRpl f.cs) (hm : modeOf s = .long64) :
    protectedReturn n s f = .ok { commitReturn s n f newCS.seg with
      rsp := loadStackPointer s n st.sp
      ss := newSS.seg } := by
  have hreturn : returnToSameSwitch n s f newCS = .ok { commitReturn s n f newCS.seg with
      rsp := loadStackPointer s n st.sp
      ss := newSS.seg } :=
    returnToSameSwitch_ok.mpr ⟨st, newSS, _, s, hst, hss, hip, shadowSameChecks_of_cetOff hcet _ _ _,
      by rw [hcsMark, hssMark, commitStores_none], rfl⟩
  unfold protectedReturn
  rw [hc, check_ok_bind, if_neg hlt, if_pos hm, hreturn]

end

/-! ### The check of SS -/

/-- The rows of `ReturnSSCheck` for a descriptor that meets the conditions of the table (44 R212, rows 3 to 5). -/
theorem stackDescriptorRows_of_returnable {ss : Sel} {rpl : BitVec 2} {d : Word}
    (h : stackSegmentReturnable ss rpl d) : stackDescriptorRows ss rpl d = true := by
  obtain ⟨-, hrpl, hs, hcode, hwritable, hdpl, -⟩ := h
  unfold stackDescriptorRows descIsWritableData descDpl
  rw [hrpl, hs, hcode, hwritable, hdpl, beq_self_eq_true]
  rfl

/-- Such a descriptor passes `ReturnSSCheck`, and SS is loaded from it. -/
theorem returnSSCheck_of_returnable {s : State} {ss : Sel} {rpl : BitVec 2} {newCS : SegReg} {d : Word}
    (hd : readDescriptor s ss = .ok d) (h : stackSegmentReturnable ss rpl d) :
    returnSSCheck s ss rpl newCS = .ok (loadSegment s ss d) := by
  obtain ⟨hnull, -, -, -, -, -, hpresent⟩ := id h
  exact returnSSCheck_ok.mpr
    (.inr ⟨selNull_eq_false.mpr hnull, d, hd, stackDescriptorRows_of_returnable h, hpresent, rfl⟩)

/-! ### IRETQ -/

/-- In 64-bit mode with NT = 0 IRETQ finishes the return of its frame (43 R191). -/
theorem exec_iretq_eq {p : Prefixes} {s : State} {f : Frame} (hv : s.vmxNonRoot = false) (hm : modeOf s = .long64)
    (hn : s.eflags.NT = false) (hf : popFrame s .w64 = .ok f) :
    exec (.iretq p) s = finish s (protectedReturn .w64 s f) := by
  have hpath : pathOf .w64 s = protectedReturn .w64 s f :=
    pathOf_protectedReturn (by rw [hm]; nofun) (by rw [hm]; nofun) hn hf (by rw [hm]; nofun)
  rw [exec_eq_finish (i := .iretq p) rfl (fun _ => hm) (not_takesTaskReturn fun _ => hn) hv (by rw [hm]; nofun), hpath]

/-- Settles O20: the two checks pass on the descriptors, nothing is stored, and the return commits the registers of an
outer or of the same level. -/
theorem iretqWithoutCetCompletes : Obligations.IretqWithoutCetCompletes := by
  intro p s ip cs fl sp ss d e hv hm hn hcet h0 h1 h2 h3 h4 hd hcs he hsseg hip hmarked
  have hc : returnCSCheck s (cs.setWidth 16) = .ok (loadSegment s (cs.setWidth 16) d) :=
    returnCSCheck_of_returnable hd hcs
  have hst : popStack s .w64 = .ok ⟨sp, ss.setWidth 16⟩ := popStack_ok.mpr ⟨sp, ss, h3, h4, rfl⟩
  have hss : returnSSCheck s (ss.setWidth 16) (selRpl (cs.setWidth 16)) (segFromDescriptor (cs.setWidth 16) d)
      = .ok (loadSegment s (ss.setWidth 16) e) := returnSSCheck_of_returnable he hsseg
  have haccepted : ipAccepted s (segFromDescriptor (cs.setWidth 16) d) ip = true := ipAccepted_of_returnAddressOk hip
  have hcsMark : (loadSegment s (cs.setWidth 16) d).mark = none :=
    loadSegment_mark_of_accessed fun hwriteback => (hmarked hwriteback).1
  have hssMark : (loadSegment s (ss.setWidth 16) e).mark = none :=
    loadSegment_mark_of_accessed fun hwriteback => (hmarked hwriteback).2
  rw [exec_iretq_eq hv hm hn (popFrame_of_pops h0 h1 h2)]
  by_cases hlt : s.cpl < selRpl (cs.setWidth 16)
  · rw [protectedReturn_outer_of_cetOff (f := ⟨ip, cs.setWidth 16, fl⟩) hc hst hss haccepted hcet hcsMark hssMark
      hlt]
    simp only [if_pos hlt]
    rfl
  · have hsame : selRpl (cs.setWidth 16) = s.cpl :=
      BitVec.le_antisymm (BitVec.not_lt.mp hlt) (returnCSCheck_cpl_le hc)
    rw [protectedReturn_same_of_cetOff (f := ⟨ip, cs.setWidth 16, fl⟩) hc hst hss haccepted hcet hcsMark hssMark
      hlt hm]
    simp only [if_neg hlt]
    rw [hsame]
    rfl

end Sys2Proof.Machine
end

section
/-! PROOFS. Real-address mode and the return within virtual-8086 mode (41_iret_real_v86.md): the state each commits, the
faults of both, and what they leave alone. -/

namespace Sys2Proof.Machine

/-! ### The path of each mode -/

theorem modeOf_eq_real_iff {s : State} : modeOf s = .real ↔ s.cr0PE = false := by
  rw [modeOf_eq]
  split <;> simp [*]

theorem modeOf_eq_v8086_iff {s : State} :
    modeOf s = .v8086 ↔ s.cr0PE = true ∧ s.eferLMA = false ∧ s.eflags.VM = true := by
  rw [modeOf_eq]
  split <;> simp [*]

theorem pathOf_real {n : OpSize} {s : State} (hm : modeOf s = .real) : pathOf n s = realAddressMode n s := by
  rw [pathOf, dispatch_eq, hm]

theorem pathOf_v8086 {n : OpSize} {s : State} (hm : modeOf s = .v8086) :
    pathOf n s = returnFromVirtual8086 n s := by
  rw [pathOf, dispatch_eq, hm]

section
variable {i : Instr} {n : OpSize} {s : State} (hi : i.opSize = some n) (hn : n ≠ .w64) (hv : s.vmxNonRoot = false)
include hi hn hv

/-- In real-address mode an execution finishes the path of 41 R140. -/
theorem exec_real (hpe : s.cr0PE = false) : exec i s = finish s (realAddressMode n s) := by
  have hm : modeOf s = .real := modeOf_eq_real_iff.mpr hpe
  have hnt : takesTaskReturn s = false := not_takesTaskReturn (by rw [hm]; nofun)
  rw [exec_eq_finish hi (fun h => absurd h hn) hnt hv (by rw [hm]; nofun), pathOf_real hm]

/-- In virtual-8086 mode it finishes the path of 41 R144. -/
theorem exec_v8086 (hm : modeOf s = .v8086) (hvme : s.cr4VME = false) :
    exec i s = finish s (returnFromVirtual8086 n s) := by
  have hnt : takesTaskReturn s = false := not_takesTaskReturn (by rw [hm]; nofun)
  rw [exec_eq_finish hi (fun h => absurd h hn) hnt hv (fun _ => hvme), pathOf_v8086 hm]

end

/-! ### Returns that complete -/

/-- Settles O9: the path of real-address mode commits the popped frame, and size 16 writes `G_LOW` alone. -/
theorem realModeReturn16Completes : Obligations.RealModeReturn16Completes := by
  intro i s ip cs fl hi hv hpe h0 h1 h2 hip
  rw [exec_real hi nofun hv hpe, realAddressMode_ok.mpr ⟨_, popFrame_of_pops h0 h1 h2, hip, rfl⟩]
  rfl

/-- Settles O10: the same path, where size 32 writes `G_REAL`. -/
theorem realModeReturn32Completes : Obligations.RealModeReturn32Completes := by
  intro i s ip cs fl hi hv hpe h0 h1 h2 hip
  rw [exec_real hi nofun hv hpe, realAddressMode_ok.mpr ⟨_, popFrame_of_pops h0 h1 h2, hip, rfl⟩]
  rfl

/-- A popped 16-bit item is at most FFFFH, so a 16-bit return address is within the limit of CS (41 R146). -/
theorem popAt_w16_le {s : State} {k : Nat} {v : Word} (h : popAt s .w16 k = .ok v) : v.toNat ≤ 0xFFFF :=
  Nat.le_of_lt_succ (popAt_lt h)

/-- Settles O12: IOPL 3 passes the gate, and a 16-bit return address cannot fail the limit check. -/
theorem virtual8086Return16Completes : Obligations.Virtual8086Return16Completes := by
  intro i s ip cs fl hi hv hm hvme hiopl h0 h1 h2
  rw [exec_v8086 hi nofun hv hm hvme,
    returnFromVirtual8086_ok.mpr ⟨hiopl, _, popFrame_of_pops h0 h1 h2, popAt_w16_le h0, rfl⟩]
  rfl

/-- Settles O13: IOPL 3 passes the gate, and the return address is within the limit of CS. -/
theorem virtual8086Return32Completes : Obligations.Virtual8086Return32Completes := by
  intro i s ip cs fl hi hv hm hvme hiopl h0 h1 h2 hip
  rw [exec_v8086 hi nofun hv hm hvme,
    returnFromVirtual8086_ok.mpr ⟨hiopl, _, popFrame_of_pops h0 h1 h2, hip, rfl⟩]
  rfl

/-! ### Faults -/

theorem ipWithinLimit_eq_false {r : SegReg} {ip : Word} :
    ipWithinLimit r ip = false ↔ r.limit.toNat < ip.toNat := by
  rw [ipWithinLimit, decide_eq_false_iff_not, Nat.not_le]

/-- Real-address mode does not page, so a read of bytes always answers (60_exceptions.md R282; log 13). -/
theorem loadV_of_real {s : State} (hpe : s.cr0PE = false) (acc : Access) (a : Word) (n : Nat) :
    ∃ v, loadV s acc a n = .ok v := by
  induction n generalizing a with
  | zero => exact ⟨0#64, rfl⟩
  | succ n ih =>
    obtain ⟨v, hrest⟩ := ih (a + 1#64)
    unfold loadV
    rw [loadByte_of_real acc a hpe, check_ok_bind, hrest]
    exact ⟨_, rfl⟩

/-- Nor does it check alignment. -/
theorem stackAligned_of_real {s : State} (hpe : s.cr0PE = false) (off : Word) (n : Nat) :
    stackAligned s off n = true := by
  rw [← Bool.not_eq_false, stackAligned_eq_false, hpe]
  exact fun h => Bool.false_ne_true h.1

/-- There a pop within the stack limits answers. -/
theorem popAt_of_real {s : State} {n : OpSize} {k : Nat} (hpe : s.cr0PE = false)
    (hb : stackInBounds s (slotOffset s n k) n.bytes = true) : ∃ v, popAt s n k = .ok v := by
  rw [popAt, stackRead_of_checked hb (stackAligned_of_real hpe _ _)]
  exact loadV_of_real hpe _ _ _

/-- A pop outside them is `#SS` without error code (41 R143). -/
theorem popAt_outside_of_real {s : State} {n : OpSize} {k : Nat} (hpe : s.cr0PE = false)
    (hb : stackInBounds s (slotOffset s n k) n.bytes = false) : popAt s n k = .error (.exc (.ss none)) := by
  rw [popAt, stackRead_of_outside hb, hpe]
  rfl

/-- A return address above the limit of CS is `#GP` without error code, after the three pops (41 R143). -/
theorem realAddressMode_ip_error {n : OpSize} {s : State} {f : Frame} (hf : popFrame s n = .ok f)
    (hip : s.cs.limit.toNat < f.ip.toNat) : realAddressMode n s = .error (.exc (.gp none)) := by
  have hout : ipWithinLimit (realSegLoad s.cs f.cs) f.ip = false := ipWithinLimit_eq_false.mpr hip
  rw [realAddressMode, hf, check_ok_bind, hout]
  rfl

/-- Settles O11: the pops before the failing one answer, since in real-address mode only the stack limits can stop a
pop; the limit of CS is checked after all three. -/
theorem realModeFaultsCarryNoErrorCode : Obligations.RealModeFaultsCarryNoErrorCode := by
  intro i n s hi hn hv hpe
  have hm : modeOf s = .real := modeOf_eq_real_iff.mpr hpe
  have fault : ∀ x, pathOf n s = .error (.exc x) →
      exec i s = .fault (.exception x { s with nmiBlocked := false }) := fun x =>
    exec_fault_of hi (fun h => absurd h hn) hv (by rw [hm]; nofun) (by rw [hm]; nofun)
  constructor
  · intro k hk hbefore hout
    refine fault _ (pathOf_frame_error (by rw [hm]; nofun) (by rw [hm]; nofun) ?_)
    exact popFrame_error hk (fun j hj => popAt_of_real hpe (hbefore j hj)) (popAt_outside_of_real hpe hout)
  · intro ip cs fl h0 h1 h2 hip
    exact fault _ ((pathOf_real hm).trans (realAddressMode_ip_error (popFrame_of_pops h0 h1 h2) hip))

/-- With IOPL below 3 the gate stops the return before any pop (41 R144). -/
theorem returnFromVirtual8086_iopl_error (n : OpSize) {s : State} (h : s.eflags.IOPL ≠ 3#2) :
    returnFromVirtual8086 n s = .error (.exc gp0) := by
  rw [returnFromVirtual8086, beq_eq_false_iff_ne.mpr h]
  rfl

/-- With IOPL 3 a return address above FFFFH is `#GP(0)`, after the three pops (41 R145). -/
theorem returnFromVirtual8086_ip_error {n : OpSize} {s : State} {f : Frame} (h : s.eflags.IOPL = 3#2)
    (hf : popFrame s n = .ok f) (hip : 0xFFFF < f.ip.toNat) :
    returnFromVirtual8086 n s = .error (.exc gp0) := by
  have hout : ipWithinLimit (v86SegLoad f.cs) f.ip = false := ipWithinLimit_eq_false.mpr hip
  rw [returnFromVirtual8086, h, hf, beq_self_eq_true, require_true, check_ok_bind, check_ok_bind, hout]
  rfl

/-- Settles O14: the gate stops the return before its pops, the limit of CS after them. -/
theorem virtual8086IoplGateFaults : Obligations.Virtual8086IoplGateFaults := by
  intro i n s hi hn hv hm hvme
  have fault : returnFromVirtual8086 n s = .error (.exc gp0) →
      exec i s = .fault (.exception gp0 { s with nmiBlocked := false }) := fun h =>
    exec_fault_of hi (fun h64 => absurd h64 hn) hv (fun _ => hvme) (by rw [hm]; nofun) ((pathOf_v8086 hm).trans h)
  exact ⟨fun hiopl => fault (returnFromVirtual8086_iopl_error n hiopl), fun ip cs fl hiopl h0 h1 h2 hip =>
    fault (returnFromVirtual8086_ip_error hiopl (popFrame_of_pops h0 h1 h2) hip)⟩

/-! ### What both returns leave alone -/

/-- Both returns commit RIP, CS, EFLAGS and RSP, and keep VM. -/
theorem pathOf_realV86 {n : OpSize} {s u : State} (hm : modeOf s = .real ∨ modeOf s = .v8086)
    (h : pathOf n s = .ok u) : ∃ ip cs flags sp, flags.VM = s.eflags.VM
      ∧ u = { s with rip := ip, cs := cs, eflags := flags, rsp := sp } := by
  obtain hm | hm := hm
  · rw [pathOf_real hm] at h
    obtain ⟨f, -, -, rfl⟩ := realAddressMode_ok.mp h
    exact ⟨_, _, _, _, writeFlagsReal_VM _ _ _, rfl⟩
  · rw [pathOf_v8086 hm] at h
    obtain ⟨-, f, -, -, rfl⟩ := returnFromVirtual8086_ok.mp h
    exact ⟨_, _, _, _, writeFlagsV86_VM _ _ _, rfl⟩

/-- Real-address and virtual-8086 mode are told by CR0.PE, LMA and VM, not by CS (10_state.md R41). -/
theorem modeOf_congr_realV86 {s t : State} (hm : modeOf s = .real ∨ modeOf s = .v8086) (hpe : t.cr0PE = s.cr0PE)
    (hlma : t.eferLMA = s.eferLMA) (hvm : t.eflags.VM = s.eflags.VM) : modeOf t = modeOf s := by
  obtain hm | hm := hm
  · rw [hm, modeOf_eq_real_iff, hpe]
    exact modeOf_eq_real_iff.mp hm
  · rw [hm, modeOf_eq_v8086_iff, hpe, hlma, hvm]
    exact modeOf_eq_v8086_iff.mp hm

/-- Settles O51: what both returns commit holds none of these fields, and the mode is told by fields they keep. -/
theorem realAndVirtual8086ReturnsStoreNothing : Obligations.RealAndVirtual8086ReturnsStoreNothing := by
  intro i n s t hi hm h
  have hnt : takesTaskReturn s = false := not_takesTaskReturn fun hp => by
    rw [hp] at hm
    exact hm.elim nofun nofun
  obtain ⟨u, hu, rfl⟩ := exec_next hi hnt h
  obtain ⟨ip, cs, flags, sp, hvm, rfl⟩ := pathOf_realV86 hm hu
  exact ⟨rfl, rfl, rfl, rfl, ⟨rfl, rfl, rfl, rfl⟩, modeOf_congr_realV86 hm rfl rfl hvm⟩

/-! ### The stack pointer -/

/-- Above bit 15 RSP is its upper half and the upper half of ESP (10_state.md R20). -/
theorem StackReg.word_above16 {r q : StackReg} (hhi : r.hi = q.hi)
    (hlo : r.lo.extractLsb' 16 16 = q.lo.extractLsb' 16 16) :
    r.word.extractLsb' 16 48 = q.word.extractLsb' 16 48 := by
  unfold StackReg.word
  rw [BitVec.extractLsb'_append_eq_ite, BitVec.extractLsb'_append_eq_ite]
  simp [hhi, hlo]

/-- SP is the low part of ESP (10_state.md R20). -/
theorem StackReg.word_setWidth16 (r : StackReg) : r.word.setWidth 16 = r.lo.setWidth 16 := by
  unfold StackReg.word
  rw [BitVec.setWidth_append, dif_pos (by decide)]

/-- A 64-bit write of the stack pointer reads back (10_state.md R21). -/
@[simp] theorem StackReg.word_ofWord (v : Word) : (StackReg.ofWord v).word = v := by
  unfold StackReg.word StackReg.ofWord
  rw [BitVec.setWidth_eq_extractLsb' (by decide)]
  exact (BitVec.extractLsb'_append_extractLsb'_eq_extractLsb' rfl).trans BitVec.extractLsb'_eq_self

/-- Settles O40: each stack address size writes its own part of RSP. -/
theorem stackPointerAdvanceBySize : Obligations.StackPointerAdvanceBySize := by
  intro s tsp
  refine ⟨fun hsize => ?_, fun hsize => ?_, fun hsize => ?_⟩
  · rw [stackPointerAdvance, hsize]
    refine ⟨StackReg.word_above16 rfl BitVec.extractLsb'_append_eq_left, ?_⟩
    rw [StackReg.word_setWidth16]
    exact BitVec.setWidth_append_eq_right
  · rw [stackPointerAdvance, hsize]
    simp [writeEsp, inIa32e]
  · rw [stackPointerAdvance, hsize]
    exact StackReg.word_ofWord tsp

end Sys2Proof.Machine
end

section
/-! PROOFS. The return to virtual-8086 mode (42_iret_protected.md R166 to R169; 45_iret_shadow_stack.md R258): the state
it commits, and the faults of its gates and of a misaligned SSP. -/

namespace Sys2Proof.Machine

/-- "8 byte aligned" in numbers (45 R253). -/
theorem aligned8_iff {v : Word} : aligned8 v = true ↔ v.toNat % 8 = 0 := by
  rw [aligned8, beq_iff_eq, ← BitVec.toNat_inj]
  simp

/-- The token of the return is the one at SSP, where a supervisor shadow stack is in use (45 R258). -/
theorem freeToken_v86Token (s : State) :
    freeToken s (v86Token s) = if shadowStackEnabled s 0#2 then tokenFree s s.ssp else .ok s := by
  unfold v86Token
  split <;> rfl

theorem modeOf_eq_protectedMode_iff {s : State} :
    modeOf s = .protectedMode ↔ s.cr0PE = true ∧ s.eferLMA = false ∧ s.eflags.VM = false := by
  rw [modeOf_eq]
  split <;> simp [*]

/-- In protected mode a write of ESP leaves the upper half of RSP a free value (10_state.md R21; log 7). -/
theorem writeEsp_protectedMode {s : State} (hm : modeOf s = .protectedMode) (v : BitVec 32) :
    writeEsp s v = ⟨Config.freeRspHigh s.freeIdx, v⟩ := by
  obtain ⟨hpe, hlma, -⟩ := modeOf_eq_protectedMode_iff.mp hm
  rw [writeEsp, inIa32e, hpe, hlma]
  rfl

/-- The image with its bit 17 set, each flag from its bit (10_state.md R23). -/
theorem ofImage_of_VM {fl : Word} (h : fl.getLsbD 17 = true) : Eflags.ofImage fl =
    { CF := fl.getLsbD 0, PF := fl.getLsbD 2, AF := fl.getLsbD 4, ZF := fl.getLsbD 6, SF := fl.getLsbD 7,
      TF := fl.getLsbD 8, IF := fl.getLsbD 9, DF := fl.getLsbD 10, OF := fl.getLsbD 11,
      IOPL := fl.extractLsb' 12 2, NT := fl.getLsbD 14, RF := fl.getLsbD 16, VM := true,
      AC := fl.getLsbD 18, VIF := fl.getLsbD 19, VIP := fl.getLsbD 20, ID := fl.getLsbD 21 } := by
  rw [Eflags.ofImage, h]

/-- The CET gate and the limit of CS stop the return before its six further pops (42 R166, R167). -/
theorem returnToVirtual8086_gate_error {s : State} {f : Frame} (h : v86CetGate s = true ∨ 0xFFFF < f.ip.toNat) :
    returnToVirtual8086 s f = .error (.exc gp0) := by
  unfold returnToVirtual8086
  cases hgate : v86CetGate s with
  | true => rfl
  | false =>
    have hip : 0xFFFF < f.ip.toNat := h.resolve_left (by rw [hgate]; exact Bool.false_ne_true)
    have hout : ipWithinLimit (v86SegLoad f.cs) f.ip = false := ipWithinLimit_eq_false.mpr hip
    rw [hout]
    rfl

/-- A supervisor SSP that is not 8-byte aligned stops it after the six further pops (45 R258). -/
theorem returnToVirtual8086_ssp_error {s : State} {f : Frame} {v : V86Items} (hgate : v86CetGate s = false)
    (hip : f.ip.toNat ≤ 0xFFFF) (hv : popV86Items s = .ok v) (hshadow : shadowStackEnabled s 0#2 = true)
    (hssp : s.ssp.toNat % 8 ≠ 0) : returnToVirtual8086 s f = .error (.exc .cp) := by
  have hunaligned : aligned8 s.ssp = false := Bool.eq_false_iff.mpr (mt aligned8_iff.mp hssp)
  unfold returnToVirtual8086
  rw [hgate, ipWithinLimit_v86.mpr hip, hv, hshadow, hunaligned]
  rfl

/-- The six further pops, when each answers. -/
theorem popV86Items_of_pops {s : State} (h : ∀ k, 3 ≤ k → k < 9 → ∃ v, popAt s .w32 k = .ok v) :
    ∃ v, popV86Items s = .ok v := by
  obtain ⟨sp, h3⟩ := h 3 (by decide) (by decide)
  obtain ⟨ss, h4⟩ := h 4 (by decide) (by decide)
  obtain ⟨es, h5⟩ := h 5 (by decide) (by decide)
  obtain ⟨ds, h6⟩ := h 6 (by decide) (by decide)
  obtain ⟨fs, h7⟩ := h 7 (by decide) (by decide)
  obtain ⟨gs, h8⟩ := h 8 (by decide) (by decide)
  exact ⟨_, popV86Items_ok.mpr ⟨sp, ss, es, ds, fs, gs, h3, h4, h5, h6, h7, h8, rfl⟩⟩

section
variable {i : Instr} {s : State} {ip cs fl : Word} (hi : i.opSize = some .w32) (hv : s.vmxNonRoot = false)
  (hm : modeOf s = .protectedMode) (hnt : s.eflags.NT = false) (hcpl : s.cpl = 0#2)
  (h0 : popAt s .w32 0 = .ok ip) (h1 : popAt s .w32 1 = .ok cs) (h2 : popAt s .w32 2 = .ok fl)
  (hvm : fl.getLsbD 17 = true)
include hi hv hm hnt hcpl h0 h1 h2 hvm

/-- At CPL 0 with bit 17 of the image set an execution finishes the return to virtual-8086 mode (42 R162). -/
theorem exec_toV86 : exec i s = finish s (returnToVirtual8086 s ⟨ip, cs.setWidth 16, fl⟩) := by
  rw [exec_eq_finish hi nofun (not_takesTaskReturn fun _ => hnt) hv (by rw [hm]; nofun),
    pathOf_returnToVirtual8086 hm (popFrame_of_pops h0 h1 h2) (returnsToV86_iff.mpr ⟨hvm, hcpl⟩)]

/-- The exception of that return is the fault of the execution. -/
theorem exec_toV86_fault {x : Exception}
    (h : returnToVirtual8086 s ⟨ip, cs.setWidth 16, fl⟩ = .error (.exc x)) :
    exec i s = .fault (.exception x { s with nmiBlocked := false }) := by
  rw [exec_toV86 hi hv hm hnt hcpl h0 h1 h2 hvm, h]
  rfl

end

/-- Settles O15: the gates and the nine pops pass, the token access stores at most memory, and the return commits the
popped items. -/
theorem returnToVirtual8086Completes : Obligations.ReturnToVirtual8086Completes := by
  intro i s u ip cs fl sp ss es ds fs gs hi hv hm hnt hcpl h0 h1 h2 hvm hgate hip h3 h4 h5 h6 h7 h8 hssp htoken
  have hitems := popV86Items_ok.mpr ⟨sp, ss, es, ds, fs, gs, h3, h4, h5, h6, h7, h8, rfl⟩
  have haligned : shadowStackEnabled s 0#2 = false ∨ aligned8 s.ssp = true :=
    (Bool.eq_false_or_eq_true _).symm.imp_right fun h => aligned8_iff.mpr (hssp h)
  have hfree : freeToken s (v86Token s) = .ok u := (freeToken_v86Token s).trans htoken
  obtain ⟨m, rfl, -⟩ := freeToken_storesOnly hfree
  rw [exec_toV86 hi hv hm hnt hcpl h0 h1 h2 hvm,
    returnToVirtual8086_ok.mpr ⟨_, _, v86CetGate_eq_false.mpr hgate, hip, hitems, haligned, hfree, rfl⟩,
    ← ofImage_of_VM hvm, ← writeEsp_protectedMode hm]
  rfl

/-- Settles O16: the CET gate and the limit of CS stop the return after three pops, a misaligned SSP after all nine. -/
theorem returnToVirtual8086GatesFault : Obligations.ReturnToVirtual8086GatesFault := by
  intro i s ip cs fl hi hv hm hnt hcpl h0 h1 h2 hvm gate
  constructor
  · intro h
    refine exec_toV86_fault hi hv hm hnt hcpl h0 h1 h2 hvm (returnToVirtual8086_gate_error (h.imp_left fun hgate => ?_))
    rw [← Bool.not_eq_false, v86CetGate_eq_false, not_not]
    exact hgate
  · intro hgate hip hpops hshadow hssp
    obtain ⟨v, hitems⟩ := popV86Items_of_pops hpops
    exact exec_toV86_fault hi hv hm hnt hcpl h0 h1 h2 hvm
      (returnToVirtual8086_ssp_error (v86CetGate_eq_false.mpr hgate) hip hitems hshadow hssp)

end Sys2Proof.Machine
end

section
/-! PROOFS. The task switch of a task return (42_iret_protected.md R163, R165): the state of the incoming task with the
busy bit of the outgoing one cleared, and the late fault; and the faults of a bad back link (R164). -/

namespace Sys2Proof.Machine

/-! ### The switch -/

/-- The incoming task, once the busy bit of the outgoing one is cleared at the physical address `pa` (42 R163). -/
def enteredTask (s : State) (t : TaskImage) (pa : Word) : State :=
  { enterTask s t with
    mem := (storeCells s.mem t.stores).write pa.toNat ((storeCells s.mem t.stores).read pa.toNat &&& 0xFD#8) }

/-- Where the write of the busy bit is translated, it is cleared, in the new task. -/
theorem clearBusy_of_translate {s : State} {t : TaskImage} {pa : Word}
    (h : translate (enterTask s t) .supervisorWrite (tssDescriptorAddr s s.tr.sel + 5#64) = .ok pa) :
    clearBusy (enterTask s t) s.tr.sel = .ok (enteredTask s t pa) :=
  modifyByte_ok.mpr ⟨pa, h, rfl⟩

/-- A page fault of that write is its exception. -/
theorem clearBusy_error {s : State} {t : TaskImage} {e : Stop}
    (h : translate (enterTask s t) .supervisorWrite (tssDescriptorAddr s s.tr.sel + 5#64) = .error e) :
    clearBusy (enterTask s t) s.tr.sel = .error e :=
  modifyByte_error.mpr h

/-- A switch whose busy bit is cleared ends in the new task. -/
theorem switchTo_switched {s : State} {t : TaskImage} {pa : Word}
    (h : translate (enterTask s t) .supervisorWrite (tssDescriptorAddr s s.tr.sel + 5#64) = .ok pa) :
    switchTo s (some (.switched t)) = endTaskReturn (enteredTask s t pa) := by
  rw [switchTo, clearBusy_of_translate h]

/-- A page fault of the busy-bit write leaves the old task (60_exceptions.md R284, R288; log 15). -/
theorem switchTo_busy_fault {s : State} {t : TaskImage} {x : Exception}
    (h : translate (enterTask s t) .supervisorWrite (tssDescriptorAddr s s.tr.sel + 5#64) = .error (.exc x)) :
    switchTo s (some (.switched t)) = .fault (.exception x { s with nmiBlocked := false }) := by
  rw [switchTo, clearBusy_error h]
  rfl

/-- The new EIP against the new CS limit, in numbers. -/
theorem ipWithinLimit_eip {r : SegReg} {ip : Word} :
    ipWithinLimit r (lowPart .w32 ip) = true ↔ (ip.setWidth 32).toNat ≤ r.limit.toNat := by
  rw [ipWithinLimit, decide_eq_true_eq, lowPart_toNat, BitVec.toNat_setWidth]
  rfl

/-- With EIP within the limit the task return completes in the new task (42 R163). -/
theorem endTaskReturn_within {t : State} (h : (t.rip.setWidth 32).toNat ≤ t.cs.limit.toNat) :
    endTaskReturn t = .next (retire t) := by
  rw [endTaskReturn, if_pos (ipWithinLimit_eip.mpr h)]

/-- With EIP above it the fault is raised in the new task (42 R165). -/
theorem endTaskReturn_outside {t : State} (h : t.cs.limit.toNat < (t.rip.setWidth 32).toNat) :
    endTaskReturn t = .fault (.exception gp0 { t with nmiBlocked := false }) := by
  rw [endTaskReturn, if_neg (mt ipWithinLimit_eip.mp (Nat.not_le.mpr h))]
  rfl

/-- SSP after a switch, by the two levels (10_state.md R39; log 23). -/
theorem switchedSsp_eq (s : State) (t : TaskImage) : switchedSsp s t =
    if shadowStackEnabled s s.cpl = true ∨ shadowStackEnabled { s with eflags := t.eflags } t.cpl = true
    then t.ssp else s.ssp := by
  split
  next h => exact switchedSsp_loaded h
  next h =>
    obtain ⟨hold, hnew⟩ := not_or.mp h
    exact switchedSsp_kept (Bool.eq_false_iff.mpr hold) (Bool.eq_false_iff.mpr hnew)

/-- With a good back link an execution does what `SwitchTasks` answers. -/
theorem exec_eq_switchTo {i : Instr} {n : OpSize} {s : State} {link d : Word} (hi : i.opSize = some n) (hn : n ≠ .w64)
    (hv : s.vmxNonRoot = false) (hm : modeOf s = .protectedMode) (ht : s.eflags.NT = true)
    (hlink : loadV s .supervisorRead s.tr.base 2 = .ok link)
    (hd : loadV s .supervisorRead (tssDescriptorAddr s (link.setWidth 16)) 8 = .ok d)
    (hok : taskLinkOk s (link.setWidth 16) d) :
    exec i s = switchTo s (lookupTask (link.setWidth 16) (s.rip + BitVec.ofNat 64 i.length) s.tasks) := by
  rw [exec_eq_taskReturn hi hn hv hm ht, taskReturn_of_checkedLink (checkedLink_ok.mpr ⟨link, d, rfl, hlink, hd, hok⟩)]

/-- Settles O23: the switch enters the new task and clears the busy bit there, and EIP passes the late check. -/
theorem taskReturnCompletes : Obligations.TaskReturnCompletes := by
  intro i n s link d pa t hi hn hv hm ht hlink hd hok hanswer stored entered hbusy hip
  have hentered : entered = enterTask s t := by
    unfold enterTask
    rw [switchedSsp_eq, storeCells_eq_foldl]
  have hstored : stored = storeCells s.mem t.stores := (storeCells_eq_foldl _ _).symm
  rw [hentered] at hbusy ⊢
  rw [exec_eq_switchTo hi hn hv hm ht hlink hd hok, hanswer, switchTo_switched hbusy, endTaskReturn_within hip, hstored]
  rfl

/-- Settles O24: the late check of EIP faults in the new task; the two other faults leave the old one. -/
theorem taskReturnLateFaultKeepsTheSwitch : Obligations.TaskReturnLateFaultKeepsTheSwitch := by
  intro i n s link d hi hn hv hm ht hlink hd hok answer
  have hexec : exec i s = switchTo s answer := exec_eq_switchTo hi hn hv hm ht hlink hd hok
  rw [hexec]
  constructor
  · intro t hanswer busy
    rw [hanswer]
    refine ⟨fun pa hbusy hip => ?_, fun code la hbusy => switchTo_busy_fault hbusy⟩
    rw [switchTo_switched hbusy]
    exact endTaskReturn_outside hip
  · intro x hanswer
    rw [hanswer]
    rfl

/-! ### A bad back link -/

/-- A selector read from the low half-word of an item has the item's local bit. -/
theorem selTI_setWidth (link : Word) : selTI (link.setWidth 16) = link.getLsbD 2 := by
  simp [selTI]

/-- And its index. -/
theorem selIndex_setWidth (link : Word) : selIndex (link.setWidth 16) = (link.extractLsb' 3 13).toNat := by
  rw [selIndex, BitVec.extractLsb'_setWidth_of_le (by decide)]

/-- The reads and checks of the back link stop as the read of the link does (42 R163). -/
theorem checkedLink_read_error {s : State} {e : Stop} (h : loadV s .supervisorRead s.tr.base 2 = .error e) :
    checkedLink s = .error e := by
  rw [checkedLink, readLink, h]
  rfl

/-- Once the link is read they stop as its checks do. -/
theorem checkedLink_check_error {s : State} {link : Word} {e : Stop}
    (hlink : loadV s .supervisorRead s.tr.base 2 = .ok link) (h : taskLinkCheck s (link.setWidth 16) = .error e) :
    checkedLink s = .error e := by
  rw [checkedLink, readLink, hlink, check_ok_bind, check_ok_bind, h]
  rfl

/-- A local link, one outside the GDT, and one whose descriptor is no busy TSS are `#GP(selector)` (42 R164). -/
theorem taskLinkCheck_bad {s : State} {link : Sel}
    (h : selTI link = true ∨ s.gdtr.limit.toNat < 8 * selIndex link + 7
      ∨ ∃ d, loadV s .supervisorRead (tssDescriptorAddr s link) 8 = .ok d
        ∧ (¬ isTssDescriptor d ∨ d.getLsbD 41 = false)) :
    taskLinkCheck s link = .error (.exc (gpSel link)) := by
  unfold taskLinkCheck
  cases hlocal : selTI link with
  | true => rfl
  | false =>
    by_cases hlimit : 8 * selIndex link + 7 ≤ s.gdtr.limit.toNat
    · obtain hlocal' | hlimit' | ⟨d, hd, hbad⟩ := h
      · exact absurd (hlocal'.symm.trans hlocal) nofun
      · exact absurd hlimit (Nat.not_le.mpr hlimit')
      · rw [decide_eq_true hlimit, hd]
        obtain htss | hbusy := hbad
        · rw [check_ok_bind, Bool.eq_false_iff.mpr (mt descIsTss_iff.mp htss)]
          rfl
        · rw [check_ok_bind, descBusy, hbusy]
          cases descIsTss d <;> rfl
    · rw [decide_eq_false hlimit]
      rfl

/-- Once the link is global and inside the GDT, a page fault of its descriptor's read stops the check (R284). -/
theorem taskLinkCheck_read_error {s : State} {link : Sel} {e : Stop} (hlocal : selTI link = false)
    (hlimit : 8 * selIndex link + 7 ≤ s.gdtr.limit.toNat)
    (h : loadV s .supervisorRead (tssDescriptorAddr s link) 8 = .error e) : taskLinkCheck s link = .error e := by
  rw [taskLinkCheck, hlocal, decide_eq_true hlimit, h]
  rfl

/-- An exception of the back link is the fault of the task return, the state otherwise as before. -/
theorem taskReturn_of_link_error {len : Nat} {s : State} {x : Exception} (h : checkedLink s = .error (.exc x)) :
    taskReturn len s = .fault (.exception x { s with nmiBlocked := false }) := by
  rw [taskReturn, h]
  rfl

/-- Settles O26: the reads of the link and of its descriptor, and the checks between and after them, stop the task
return before `SwitchTasks` is looked up. -/
theorem badBackLinkFaults : Obligations.BadBackLinkFaults := by
  intro i n s hi hn hv hm ht
  have fault : ∀ x, checkedLink s = .error (.exc x) →
      exec i s = .fault (.exception x { s with nmiBlocked := false }) := fun x h =>
    (exec_eq_taskReturn hi hn hv hm ht).trans (taskReturn_of_link_error h)
  refine ⟨fun sel => rfl, fun x h => fault x (checkedLink_read_error h), fun link hlink => ?_⟩
  rw [← selTI_setWidth, ← selIndex_setWidth]
  exact ⟨fun hbad => fault _ (checkedLink_check_error hlink (taskLinkCheck_bad hbad)), fun x hlocal hlimit h =>
    fault x (checkedLink_check_error hlink (taskLinkCheck_read_error hlocal hlimit h))⟩

end Sys2Proof.Machine
end

section
/-! PROOFS. IA-32e mode (43_iret_ia32e.md): the fault of NT = 1 before any pop (R190), and the return to the same level
begun in 64-bit mode, with its stores (R193; 44 R219). -/

namespace Sys2Proof.Machine

/-! ### The path of the mode -/

/-- With CR0.PE = 1 and LMA = 1 an execution takes the path of IA-32e mode (40_iret_common.md R114). -/
theorem pathOf_ia32e {n : OpSize} {s : State} (hpe : s.cr0PE = true) (hlma : s.eferLMA = true) :
    pathOf n s = ia32eMode n s := by
  unfold pathOf dispatch
  rw [hpe, hlma]
  rfl

/-- NT = 1 stops it before the first pop (43 R190). -/
theorem ia32eMode_nested_error (n : OpSize) {s : State} (h : s.eflags.NT = true) :
    ia32eMode n s = .error (.exc gp0) := by
  unfold ia32eMode
  rw [h]
  rfl

/-- Settles O22: with LMA = 1 the mode is neither virtual-8086 nor legacy protected mode, so the path is that of IA-32e
mode, which tests NT first. -/
theorem nestedTaskFlagFaultsInIa32eMode : Obligations.NestedTaskFlagFaultsInIa32eMode := by
  intro i n s hi hq hv hpe hlma hnt
  have hnotV86 : modeOf s ≠ .v8086 := by simp [modeOf_eq_v8086_iff, hlma]
  have hnotProtected : modeOf s ≠ .protectedMode := by simp [modeOf_eq_protectedMode_iff, hlma]
  exact exec_fault_of hi hq hv (fun hm => absurd hm hnotV86) (fun hm => absurd hm hnotProtected)
    ((pathOf_ia32e hpe hlma).trans (ia32eMode_nested_error n hnt))

/-! ### The return to the same level begun in 64-bit mode -/

theorem modeOf_eq_long64_iff {s : State} :
    modeOf s = .long64 ↔ s.cr0PE = true ∧ s.eferLMA = true ∧ s.cs.L = true := by
  rw [modeOf_eq]
  split <;> simp [*]

/-- In 64-bit mode the whole of RSP is loaded for size 64, else the zero-extended ESP (43 R196; 10_state.md R21). -/
theorem loadStackPointer_long64 {s : State} (hm : modeOf s = .long64) (n : OpSize) (v : Word) :
    loadStackPointer s n v = if n = .w64 then StackReg.ofWord v else ⟨0#32, v.setWidth 32⟩ := by
  have hesp : writeEsp s (v.setWidth 32) = ⟨0#32, v.setWidth 32⟩ := by
    obtain ⟨hpe, hlma, -⟩ := modeOf_eq_long64_iff.mp hm
    rw [writeEsp, inIa32e, hpe, hlma]
    rfl
  cases n with
  | w64 => rfl
  | w32 => exact hesp
  | w16 => exact hesp

/-- The stores of a Commit, when each answers: the accessed bit of CS, that of SS, the token (log 16). -/
theorem commitStores_of_stores {s u1 u2 u : State} {cs ss token : Option Word} (hcs : markAccessed s cs = .ok u1)
    (hss : markAccessed u1 ss = .ok u2) (htoken : freeToken u2 token = .ok u) : commitStores s cs ss token = .ok u := by
  rw [commitStores, hcs, check_ok_bind, hss, check_ok_bind, htoken]

/-- In 64-bit mode with NT = 0 an execution finishes the return of its frame (43 R191). -/
theorem exec_long64 {i : Instr} {n : OpSize} {s : State} {f : Frame} (hi : i.opSize = some n)
    (hv : s.vmxNonRoot = false) (hm : modeOf s = .long64) (hnt : s.eflags.NT = false) (hf : popFrame s n = .ok f) :
    exec i s = finish s (protectedReturn n s f) := by
  rw [exec_eq_finish hi (fun _ => hm) (not_takesTaskReturn fun _ => hnt) hv (by rw [hm]; nofun),
    pathOf_protectedReturn (by rw [hm]; nofun) (by rw [hm]; nofun) hnt hf (by rw [hm]; nofun)]

/-- A return that does not go to an outer level is, in 64-bit mode, the one that pops RSP and SS (43 R192, R193). -/
theorem protectedReturn_sameSwitch {n : OpSize} {s : State} {f : Frame} {newCS : LoadedSeg}
    (hc : returnCSCheck s f.cs = .ok newCS) (hlt : ¬ s.cpl < selRpl f.cs) (hm : modeOf s = .long64) :
    protectedReturn n s f = returnToSameSwitch n s f newCS := by
  rw [protectedReturn, hc, check_ok_bind, if_neg hlt, if_pos hm]

/-- Settles O18: the five pops and the checks pass, the stores change at most memory, and the return commits the popped
stack pointer and SS with the registers every return commits. -/
theorem samePrivilegeReturnFrom64BitModeCompletes : Obligations.SamePrivilegeReturnFrom64BitModeCompletes := by
  intro i n s u1 u2 u ip cs fl sp ss d newSS sh hi hv hm hnt h0 h1 h2 hd hcs hrpl h3 h4 hss hip hsh hcsMark hssMark
    htoken
  have hc : returnCSCheck s (cs.setWidth 16) = .ok (loadSegment s (cs.setWidth 16) d) :=
    returnCSCheck_of_returnable hd hcs
  have hsame : ¬ s.cpl < selRpl (cs.setWidth 16) := by
    rw [hrpl]
    exact BitVec.lt_irrefl _
  have hst : popStack s n = .ok ⟨sp, ss.setWidth 16⟩ := popStack_ok.mpr ⟨sp, ss, h3, h4, rfl⟩
  have hstores : commitStores s (loadSegment s (cs.setWidth 16) d).mark newSS.mark sh.token = .ok u :=
    commitStores_of_stores hcsMark hssMark htoken
  rw [← hrpl] at hss
  have hreturn : returnToSameSwitch n s ⟨ip, cs.setWidth 16, fl⟩ (loadSegment s (cs.setWidth 16) d) =
      .ok { commitReturn u n ⟨ip, cs.setWidth 16, fl⟩ (segFromDescriptor (cs.setWidth 16) d) with
        rsp := loadStackPointer s n sp
        ss := newSS.seg
        ssp := sh.ssp } :=
    returnToSameSwitch_ok.mpr ⟨_, newSS, sh, u, hst, hss, ipAccepted_of_returnAddressOk hip, hsh, hstores, rfl⟩
  obtain ⟨m, rfl, -⟩ := commitStores_storesOnly hstores
  rw [exec_long64 hi hv hm hnt (popFrame_of_pops h0 h1 h2),
    protectedReturn_sameSwitch (f := ⟨ip, cs.setWidth 16, fl⟩) hc hsame hm, hreturn, ← loadStackPointer_long64 hm]
  rfl

end Sys2Proof.Machine
end

section
/-! PROOFS. The checks of the returned-to segments (44_iret_privilege_returns.md R210 to R213): when each passes and the
exception of each failing row; and the segment that a descriptor loads (R216). -/

namespace Sys2Proof.Machine

/-! ### Selectors -/

/-- RPL is bits 1:0 of the selector (10_state.md R35). -/
theorem selRpl_toNat (sel : Sel) : (selRpl sel).toNat = sel.toNat % 4 := by
  rw [selRpl, BitVec.extractLsb'_toNat, Nat.shiftRight_zero]

theorem selNull_eq_true {sel : Sel} : selNull sel = true ↔ sel.toNat < 4 := by
  rw [← Bool.not_eq_false, selNull_eq_false, Nat.not_le]

/-! ### The segment of a descriptor -/

theorem append_toNat {m n : Nat} (x : BitVec m) (y : BitVec n) : (x ++ y).toNat = x.toNat * 2 ^ n + y.toNat := by
  rw [BitVec.toNat_append, ← Nat.shiftLeft_add_eq_or_of_lt y.isLt, Nat.shiftLeft_eq]

/-- A field of a descriptor as a number. -/
theorem extractLsb'_toNat_div (d : Word) (start len : Nat) :
    (d.extractLsb' start len).toNat = d.toNat / 2 ^ start % 2 ^ len := by
  rw [BitVec.extractLsb'_toNat, Nat.shiftRight_eq_div_pow]

/-- The base is bits 63:56 above bits 39:16 (10_state.md R37). -/
theorem descBase_toNat (d : Word) : (descBase d).toNat = d.toNat / 2 ^ 56 * 2 ^ 24 + d.toNat / 2 ^ 16 % 2 ^ 24 := by
  have hhigh : d.toNat / 2 ^ 56 < 2 ^ 8 := Nat.div_lt_of_lt_mul d.isLt
  rw [descBase, append_toNat, extractLsb'_toNat_div, extractLsb'_toNat_div, Nat.mod_eq_of_lt hhigh]

/-- The unscaled limit is bits 51:48 above bits 15:0 (10_state.md R37). -/
theorem descLimit20_toNat (d : Word) :
    (descLimit20 d).toNat = d.toNat / 2 ^ 48 % 2 ^ 4 * 2 ^ 16 + d.toNat % 2 ^ 16 := by
  rw [descLimit20, append_toNat, extractLsb'_toNat_div, extractLsb'_toNat_div, Nat.pow_zero, Nat.div_one]

/-- The G bit scales the limit by 4096 and fills the low twelve bits (10_state.md R37). -/
theorem descLimit_toNat (d : Word) : (descLimit d).toNat =
    if d.getLsbD 55 = true then (descLimit20 d).toNat * 4096 + 4095 else (descLimit20 d).toNat := by
  unfold descLimit
  split
  · exact append_toNat _ _
  · exact BitVec.toNat_setWidth_of_le (by decide)

/-- Settles O35: base and limit are appended fields of the descriptor, and every other field is one of its bits. -/
theorem descriptorBaseAndLimit : Obligations.DescriptorBaseAndLimit := by
  intro sel d
  refine ⟨?_, ?_, rfl⟩
  · exact (BitVec.toNat_setWidth_of_le (by decide)).trans (descBase_toNat d)
  · rw [← descLimit20_toNat]
    exact descLimit_toNat d

/-! ### The check of CS -/

/-- Rows 3 to 7 of `ReturnCSCheck` in the bits of the descriptor (44 R210). -/
theorem codeDescriptorRows_iff {s : State} {cs : Sel} {d : Word} : codeDescriptorRows s cs d = true ↔
    d.getLsbD 44 = true ∧ d.getLsbD 43 = true ∧ s.cpl ≤ selRpl cs
    ∧ (d.getLsbD 42 = true → d.extractLsb' 45 2 ≤ selRpl cs)
    ∧ (d.getLsbD 42 = false → d.extractLsb' 45 2 = selRpl cs)
    ∧ ¬ (s.eferLMA = true ∧ d.getLsbD 53 = true ∧ d.getLsbD 54 = true) := by
  unfold codeDescriptorRows descIsCode descConforming descDpl descL descDB
  cases d.getLsbD 42 <;> simp [and_assoc, imp_iff_not_or, or_assoc]

/-- The failing rows; all have the same exception. -/
theorem codeDescriptorRows_eq_false {s : State} {cs : Sel} {d : Word} : codeDescriptorRows s cs d = false ↔
    d.getLsbD 44 = false ∨ d.getLsbD 43 = false ∨ selRpl cs < s.cpl
    ∨ (d.getLsbD 42 = true ∧ selRpl cs < d.extractLsb' 45 2)
    ∨ (d.getLsbD 42 = false ∧ d.extractLsb' 45 2 ≠ selRpl cs)
    ∨ (s.eferLMA = true ∧ d.getLsbD 53 = true ∧ d.getLsbD 54 = true) := by
  rw [← Bool.not_eq_true, codeDescriptorRows_iff]
  simp only [not_and_or, Classical.not_imp, not_or, Bool.not_eq_true, Bool.not_eq_false, BitVec.not_le, ne_eq]

/-- The conditions of the whole check are its NULL row, its rows 3 to 7 and its present row. -/
theorem codeSegmentReturnable_iff {s : State} {cs : Sel} {d : Word} : codeSegmentReturnable s cs d ↔
    selNull cs = false ∧ codeDescriptorRows s cs d = true ∧ descPresent d = true := by
  rw [codeDescriptorRows_iff, selNull_eq_false, descPresent, codeSegmentReturnable]
  simp only [and_assoc]

/-- Settles O29: the check answers when its rows pass in their order, and these are the conditions of the table. -/
theorem codeSegmentCheckPassesExactly : Obligations.CodeSegmentCheckPassesExactly := by
  refine ⟨selRpl_toNat, fun s cs l => returnCSCheck_ok.trans (exists_congr fun d => ?_)⟩
  rw [codeSegmentReturnable_iff]
  constructor
  · rintro ⟨hnull, hd, hrows, hpresent, hl⟩
    exact ⟨hd, ⟨hnull, hrows, hpresent⟩, hl⟩
  · rintro ⟨hd, ⟨hnull, hrows, hpresent⟩, hl⟩
    exact ⟨hnull, hd, hrows, hpresent, hl⟩

/-- A NULL selector stops the check of CS (44 R210 row 1). -/
theorem returnCSCheck_null_error {s : State} {cs : Sel} (hnull : selNull cs = true) :
    returnCSCheck s cs = .error (.exc gp0) := by
  unfold returnCSCheck
  rw [hnull]
  rfl

section
variable {s : State} {cs : Sel} (hnull : selNull cs = false)
include hnull

/-- So does a failing descriptor read, with its own exception (44 R210 row 2). -/
theorem returnCSCheck_descriptor_error {e : Stop} (h : readDescriptor s cs = .error e) :
    returnCSCheck s cs = .error e := by
  unfold returnCSCheck
  rw [hnull, h]
  rfl

/-- Rows 3 to 7. -/
theorem returnCSCheck_rows_error {d : Word} (hd : readDescriptor s cs = .ok d)
    (hrows : codeDescriptorRows s cs d = false) : returnCSCheck s cs = .error (.exc (gpSel cs)) := by
  unfold returnCSCheck
  rw [hnull, hd, check_ok_bind, hrows]
  rfl

/-- Row 8, after the others have passed (decision D8). -/
theorem returnCSCheck_present_error {d : Word} (hd : readDescriptor s cs = .ok d)
    (hrows : codeDescriptorRows s cs d = true) (hpresent : descPresent d = false) :
    returnCSCheck s cs = .error (.exc (.np (selectorCode cs))) := by
  unfold returnCSCheck
  rw [hnull, hd, check_ok_bind, hrows, hpresent]
  rfl

end

/-! ### The check of SS -/

/-- Rows 3 to 5 of `ReturnSSCheck` in the bits of the descriptor (44 R212). -/
theorem stackDescriptorRows_iff {ss : Sel} {rpl : BitVec 2} {d : Word} : stackDescriptorRows ss rpl d = true ↔
    selRpl ss = rpl ∧ (d.getLsbD 44 = true ∧ d.getLsbD 43 = false ∧ d.getLsbD 41 = true)
    ∧ d.extractLsb' 45 2 = rpl := by
  unfold stackDescriptorRows descIsWritableData descDpl
  simp only [Bool.and_eq_true, beq_iff_eq, Bool.not_eq_true', and_assoc]

theorem stackDescriptorRows_eq_false {ss : Sel} {rpl : BitVec 2} {d : Word} : stackDescriptorRows ss rpl d = false ↔
    selRpl ss ≠ rpl ∨ ¬ (d.getLsbD 44 = true ∧ d.getLsbD 43 = false ∧ d.getLsbD 41 = true)
    ∨ d.extractLsb' 45 2 ≠ rpl := by
  rw [← Bool.not_eq_true, stackDescriptorRows_iff, not_and_or, not_and_or]

/-- The conditions of the whole check are its NULL row, its rows 3 to 5 and its present row. -/
theorem stackSegmentReturnable_iff {ss : Sel} {rpl : BitVec 2} {d : Word} : stackSegmentReturnable ss rpl d ↔
    selNull ss = false ∧ stackDescriptorRows ss rpl d = true ∧ descPresent d = true := by
  rw [stackDescriptorRows_iff, selNull_eq_false, descPresent, stackSegmentReturnable]
  simp only [and_assoc]

/-- Settles O31: a selector that is not NULL is answered from its descriptor alone, whose rows are the conditions of the
table. -/
theorem stackSegmentCheckPassesExactly : Obligations.StackSegmentCheckPassesExactly := by
  intro s ss rpl newCS l hss
  have hnull : selNull ss = false := selNull_eq_false.mpr hss
  rw [returnSSCheck_ok]
  constructor
  · rintro (⟨hnull', -, -⟩ | ⟨-, d, hd, hrows, hpresent, hl⟩)
    · exact absurd (hnull.symm.trans hnull') Bool.false_ne_true
    · exact ⟨d, hd, stackSegmentReturnable_iff.mpr ⟨hnull, hrows, hpresent⟩, hl⟩
  · rintro ⟨d, hd, hreturnable, hl⟩
    obtain ⟨-, hrows, hpresent⟩ := stackSegmentReturnable_iff.mp hreturnable
    exact .inr ⟨hnull, d, hd, hrows, hpresent, hl⟩

section
variable {s : State} {ss : Sel} {rpl : BitVec 2} {newCS : SegReg} (hnull : selNull ss = false)
include hnull

/-- A failing descriptor read stops the check of SS with its own exception (44 R212 row 2). -/
theorem returnSSCheck_descriptor_error {e : Stop} (h : readDescriptor s ss = .error e) :
    returnSSCheck s ss rpl newCS = .error e := by
  unfold returnSSCheck
  rw [hnull, h]
  rfl

/-- Rows 3 to 5. -/
theorem returnSSCheck_rows_error {d : Word} (hd : readDescriptor s ss = .ok d)
    (hrows : stackDescriptorRows ss rpl d = false) : returnSSCheck s ss rpl newCS = .error (.exc (gpSel ss)) := by
  unfold returnSSCheck
  rw [hnull, hd, check_ok_bind, hrows]
  rfl

/-- Row 6, after the others have passed (decision D8). -/
theorem returnSSCheck_present_error {d : Word} (hd : readDescriptor s ss = .ok d)
    (hrows : stackDescriptorRows ss rpl d = true) (hpresent : descPresent d = false) :
    returnSSCheck s ss rpl newCS = .error (.exc (.ss (some 0#32))) := by
  unfold returnSSCheck
  rw [hnull, hd, check_ok_bind, hrows, hpresent]
  rfl

end

/-! ### A NULL SS -/

/-- When `NullSSRule` accepts (44 R213, decision D23). -/
theorem nullSSAccepted_iff {s : State} {ss : Sel} {rpl : BitVec 2} {newCS : SegReg} :
    nullSSAccepted s ss rpl newCS = true ↔
      modeOf s = .long64 ∧ s.eferLMA = true ∧ newCS.L = true ∧ rpl ≠ 3#2 ∧ selRpl ss = rpl := by
  unfold nullSSAccepted newMode64
  simp only [Bool.and_eq_true, decide_eq_true_eq, bne_iff_ne, beq_iff_eq, and_assoc]

/-- A NULL selector reads no descriptor: it is accepted, SS then being invalid, or raises `#GP(0)`. -/
theorem returnSSCheck_null {s : State} {ss : Sel} (hnull : selNull ss = true) (rpl : BitVec 2) (newCS : SegReg) :
    returnSSCheck s ss rpl newCS =
      if nullSSAccepted s ss rpl newCS = true then .ok ⟨nullSeg s.freeIdx ss, none⟩ else .error (.exc gp0) := by
  unfold returnSSCheck
  rw [if_pos hnull, require_bind]

/-- Settles O33: the answer and the exception are those of the one condition a NULL selector is checked for. -/
theorem nullStackSelectorAcceptedExactly : Obligations.NullStackSelectorAcceptedExactly := by
  intro s ss rpl newCS hss
  rw [← nullSSAccepted_iff, returnSSCheck_null (selNull_eq_true.mpr hss)]
  cases nullSSAccepted s ss rpl newCS with
  | true =>
    refine ⟨⟨fun _ => rfl, fun _ => ⟨_, rfl⟩⟩, fun l h => ?_, nofun⟩
    cases h
    exact ⟨rfl, rfl, rfl⟩
  | false =>
    refine ⟨⟨nofun, nofun⟩, nofun, fun e h => ?_⟩
    cases h
    rfl

end Sys2Proof.Machine
end

section
/-! PROOFS. Protected-style returns (44_iret_privilege_returns.md R210 to R220): the return of a popped frame, the
faults of its checks, the states that the returns to the same and to an outer level commit, and the data segments. -/

namespace Sys2Proof.Machine

/-! ### The return of a frame -/

section
variable {i : Instr} {n : OpSize} {s : State} {ip cs fl : Word} (hi : i.opSize = some n)
  (hq : n = .w64 → modeOf s = .long64) (hv : s.vmxNonRoot = false) (hreal : modeOf s ≠ .real)
  (hv86 : modeOf s ≠ .v8086) (hnt : s.eflags.NT = false) (h0 : popAt s n 0 = .ok ip) (h1 : popAt s n 1 = .ok cs)
  (h2 : popAt s n 2 = .ok fl) (himage : modeOf s = .protectedMode → fl.getLsbD 17 = false ∨ s.cpl ≠ 0#2)
include hi hq hv hreal hv86 hnt h0 h1 h2 himage

/-- In protected mode, the image not selecting virtual-8086 mode, and in IA-32e mode an execution with NT = 0 finishes
the return of its frame (42 R171, 43 R191). -/
theorem exec_protectedReturn : exec i s = finish s (protectedReturn n s ⟨ip, cs.setWidth 16, fl⟩) := by
  have hto : modeOf s = .protectedMode → returnsToV86 s ⟨ip, cs.setWidth 16, fl⟩ = false := fun hm =>
    Bool.and_eq_false_iff.mpr ((himage hm).imp id beq_eq_false_iff_ne.mpr)
  rw [exec_eq_finish hi hq (not_takesTaskReturn fun _ => hnt) hv (fun hm => absurd hm hv86),
    pathOf_protectedReturn hreal hv86 hnt (popFrame_of_pops h0 h1 h2) hto]

/-- The exception of that return is the fault of the execution (60_exceptions.md R288). -/
theorem exec_protectedReturn_fault {x : Exception}
    (h : protectedReturn n s ⟨ip, cs.setWidth 16, fl⟩ = .error (.exc x)) :
    exec i s = .fault (.exception x { s with nmiBlocked := false }) := by
  rw [exec_protectedReturn hi hq hv hreal hv86 hnt h0 h1 h2 himage, h]
  rfl

end

/-! ### Faults -/

/-- A failing check of SS stops a return that pops it. -/
theorem protectedReturn_ss_error {n : OpSize} {s : State} {f : Frame} {newCS : LoadedSeg} {st : StackItems} {e : Stop}
    (hc : returnCSCheck s f.cs = .ok newCS) (hp : s.cpl < selRpl f.cs ∨ modeOf s = .long64)
    (hst : popStack s n = .ok st) (h : returnSSCheck s st.ss (selRpl f.cs) newCS.seg = .error e) :
    protectedReturn n s f = .error e := by
  obtain ⟨rest, hr⟩ := protectedReturn_switch (n := n) hc hp
  rw [hr, hst, check_ok_bind, h, check_error_bind]

/-- Settles O30: each failing row stops the check of CS with its exception, and that check stops the return of the
frame. -/
theorem codeSegmentCheckFaultsByRow : Obligations.CodeSegmentCheckFaultsByRow := by
  intro s cs
  refine ⟨fun h => returnCSCheck_null_error (selNull_eq_true.mpr h),
    fun e h => returnCSCheck_descriptor_error (selNull_eq_false.mpr h),
    fun d h hd => ⟨fun hrows => ?_, fun hrows => ?_⟩, ?_⟩
  · exact returnCSCheck_rows_error (selNull_eq_false.mpr h) hd (codeDescriptorRows_eq_false.mpr hrows)
  · exact returnCSCheck_present_error (selNull_eq_false.mpr h) hd hrows
  · rintro i n ip w fl x hi hq hv hreal hv86 hnt h0 h1 h2 rfl himage hc
    exact exec_protectedReturn_fault hi hq hv hreal hv86 hnt h0 h1 h2 himage (protectedReturn_cs_error hc)

/-- Settles O32: each failing row stops the check of SS with its exception, and that check stops a return that pops
SS. -/
theorem stackSegmentCheckFaultsByRow : Obligations.StackSegmentCheckFaultsByRow := by
  intro s ss
  refine ⟨fun rpl newCS e h => returnSSCheck_descriptor_error (selNull_eq_false.mpr h),
    fun rpl newCS d h hd => ⟨fun hrows => ?_, fun hrows => ?_⟩, ?_⟩
  · exact returnSSCheck_rows_error (selNull_eq_false.mpr h) hd (stackDescriptorRows_eq_false.mpr hrows)
  · exact returnSSCheck_present_error (selNull_eq_false.mpr h) hd hrows
  · rintro i n ip cs fl sp w newCS x hi hq hv hreal hv86 hnt h0 h1 h2 himage hc hpops h3 h4 rfl hss
    have hst : popStack s n = .ok ⟨sp, w.setWidth 16⟩ := popStack_ok.mpr ⟨sp, w, h3, h4, rfl⟩
    exact exec_protectedReturn_fault hi hq hv hreal hv86 hnt h0 h1 h2 himage
      (protectedReturn_ss_error hc hpops hst hss)

/-- `IPCheck` of the segment of a descriptor asks exactly the condition of the return address (44 R214). -/
theorem ipAccepted_segFromDescriptor {s : State} {cs : Sel} {d ip : Word} :
    ipAccepted s (segFromDescriptor cs d) ip = true ↔ returnAddressOk s d ip := by
  have hmode : newMode64 s (segFromDescriptor cs d) = true ↔ s.eferLMA = true ∧ d.getLsbD 53 = true :=
    Bool.and_eq_true_iff
  unfold ipAccepted returnAddressOk
  simp only [hmode]
  split
  · exact Iff.rfl
  · exact decide_eq_true_iff

/-- Settles O21: the frame, CS and, where it is popped, SS are good, and the return stops at the return address. -/
theorem unacceptedReturnAddressFaults : Obligations.UnacceptedReturnAddressFaults := by
  intro i n s ip cs fl d hi hq hv hreal hv86 hnt h0 h1 h2 himage hd hcs hss hip
  have hrefused : ipAccepted s (segFromDescriptor (cs.setWidth 16) d) ip = false :=
    Bool.eq_false_iff.mpr (mt ipAccepted_segFromDescriptor.mp hip)
  refine exec_protectedReturn_fault hi hq hv hreal hv86 hnt h0 h1 h2 himage
    (protectedReturn_ip_error (returnCSCheck_of_returnable hd hcs) (fun hpops => ?_) hrefused)
  obtain ⟨sp, ss, newSS, h3, h4, hcheck⟩ := hss hpops
  exact ⟨_, newSS, popStack_ok.mpr ⟨sp, ss, h3, h4, rfl⟩, hcheck⟩

/-! ### Returns that complete -/

/-- Outside 64-bit mode a return that does not go to an outer level is the one of three items (42 R172, 43 R194). -/
theorem protectedReturn_same {n : OpSize} {s : State} {f : Frame} {newCS : LoadedSeg}
    (hc : returnCSCheck s f.cs = .ok newCS) (hlt : ¬ s.cpl < selRpl f.cs) (hm : modeOf s ≠ .long64) :
    protectedReturn n s f = returnToSame n s f newCS := by
  rw [protectedReturn, hc, check_ok_bind, if_neg hlt, if_neg hm]

/-- A return whose RPL of CS is above CPL goes to an outer level (44 R215). -/
theorem protectedReturn_outer {n : OpSize} {s : State} {f : Frame} {newCS : LoadedSeg}
    (hc : returnCSCheck s f.cs = .ok newCS) (hlt : s.cpl < selRpl f.cs) :
    protectedReturn n s f = returnToOuter n s f newCS := by
  rw [protectedReturn, hc, check_ok_bind, if_pos hlt]

/-- Settles O17: the checks pass, the stores change at most memory, and the return commits the stack pointer past three
items with the registers every return commits. -/
theorem samePrivilegeReturnCompletes : Obligations.SamePrivilegeReturnCompletes := by
  intro i n s u1 u ip cs fl d sh hi hn hv hm hnt h0 h1 h2 himage hd hcs hrpl hip hsh hcsMark htoken
  obtain ⟨hreal, hv86, hlong⟩ : modeOf s ≠ .real ∧ modeOf s ≠ .v8086 ∧ modeOf s ≠ .long64 := by
    obtain hm | hm := hm <;> simp [hm]
  have hsame : ¬ s.cpl < selRpl (cs.setWidth 16) := by
    rw [hrpl]
    exact BitVec.lt_irrefl _
  have hstores : commitStores s (loadSegment s (cs.setWidth 16) d).mark none sh.token = .ok u :=
    commitStores_of_stores hcsMark rfl htoken
  have hc : returnCSCheck s (cs.setWidth 16) = .ok (loadSegment s (cs.setWidth 16) d) :=
    returnCSCheck_of_returnable hd hcs
  have hreturn : returnToSame n s ⟨ip, cs.setWidth 16, fl⟩ (loadSegment s (cs.setWidth 16) d) =
      .ok { commitReturn u n ⟨ip, cs.setWidth 16, fl⟩ (segFromDescriptor (cs.setWidth 16) d) with
        rsp := stackPointerAdvance s (slotOffset s n 3)
        ssp := sh.ssp } :=
    returnToSame_ok.mpr ⟨sh, u, ipAccepted_of_returnAddressOk hip, hsh, hstores, rfl⟩
  obtain ⟨m, rfl, -⟩ := commitStores_storesOnly hstores
  rw [exec_protectedReturn hi (fun h => absurd h hn) hv hreal hv86 hnt h0 h1 h2 himage,
    protectedReturn_same (f := ⟨ip, cs.setWidth 16, fl⟩) hc hsame hlong, hreturn]
  rfl

/-- The popped stack pointer: all of RSP for size 64, else ESP, the upper half of RSP being 0 in IA-32e mode and a free
value in a legacy mode (44 R217; 10_state.md R21; log 7). -/
theorem loadStackPointer_eq {s : State} (hpe : s.cr0PE = true) (n : OpSize) (v : Word) :
    loadStackPointer s n v = if n = .w64 then ⟨v.extractLsb' 32 32, v.setWidth 32⟩
      else ⟨if s.eferLMA = true then 0#32 else Config.freeRspHigh s.freeIdx, v.setWidth 32⟩ := by
  have hesp : writeEsp s (v.setWidth 32)
      = ⟨if s.eferLMA = true then 0#32 else Config.freeRspHigh s.freeIdx, v.setWidth 32⟩ := by
    rw [writeEsp, inIa32e, hpe, Bool.true_and]
  cases n with
  | w64 => rfl
  | w32 => exact hesp
  | w16 => exact hesp

/-- Settles O19: the five pops and the checks pass, the stores change at most memory, and the return commits the popped
stack pointer, SS, CPL and the data segments with the registers every return commits. -/
theorem outerPrivilegeReturnCompletes : Obligations.OuterPrivilegeReturnCompletes := by
  intro i n s u1 u2 u ip cs fl sp ss d newSS sh hi hq hv hreal hv86 hnt h0 h1 h2 himage hd hcs hlt h3 h4 hss hip hsh
    hcsMark hssMark htoken
  have hpe : s.cr0PE = true := Bool.of_not_eq_false (mt modeOf_eq_real_iff.mpr hreal)
  have hst : popStack s n = .ok ⟨sp, ss.setWidth 16⟩ := popStack_ok.mpr ⟨sp, ss, h3, h4, rfl⟩
  have hstores : commitStores s (loadSegment s (cs.setWidth 16) d).mark newSS.mark sh.token = .ok u :=
    commitStores_of_stores hcsMark hssMark htoken
  have hc : returnCSCheck s (cs.setWidth 16) = .ok (loadSegment s (cs.setWidth 16) d) :=
    returnCSCheck_of_returnable hd hcs
  have hreturn : returnToOuter n s ⟨ip, cs.setWidth 16, fl⟩ (loadSegment s (cs.setWidth 16) d) =
      .ok (commitOuter u n ⟨ip, cs.setWidth 16, fl⟩ ⟨sp, ss.setWidth 16⟩ (segFromDescriptor (cs.setWidth 16) d)
        newSS.seg sh.ssp) :=
    returnToOuter_ok.mpr ⟨_, newSS, sh, u, hst, hss, ipAccepted_of_returnAddressOk hip, hsh, hstores, rfl⟩
  obtain ⟨m, rfl, -⟩ := commitStores_storesOnly hstores
  rw [exec_protectedReturn hi hq hv hreal hv86 hnt h0 h1 h2 himage,
    protectedReturn_outer (f := ⟨ip, cs.setWidth 16, fl⟩) hc hlt, hreturn, ← loadStackPointer_eq hpe]
  rfl

/-! ### The data segments -/

/-- What a path makes of CPL and the data segments: it keeps both, or it goes to virtual-8086 mode, or it goes to an
outer level and nullifies what is inaccessible there (44 R218, R219; 42 R169). -/
theorem pathOf_dataSegments {n : OpSize} {s t : State} (h : pathOf n s = .ok t) :
    (t.cpl = s.cpl ∧ sameDataSegments s t)
    ∨ (s.cpl < t.cpl ∧ t.eflags.VM ≠ s.eflags.VM)
    ∨ (s.cpl < t.cpl ∧ t.ds = nullifyIfInaccessible s.freeIdx .ds s.ds t.cpl
      ∧ t.es = nullifyIfInaccessible s.freeIdx .es s.es t.cpl
      ∧ t.fs = nullifyIfInaccessible s.freeIdx .fs s.fs t.cpl
      ∧ t.gs = nullifyIfInaccessible s.freeIdx .gs s.gs t.cpl) := by
  obtain ⟨f, -, ⟨-, -, rfl⟩ | ⟨-, -, -, rfl⟩ | ⟨hm, hv, v, m, -, -, rfl⟩ | ⟨-, -, -, c, -, hreturn⟩⟩ := pathOf_cases h
  · exact .inl ⟨rfl, rfl, rfl, rfl, rfl⟩
  · exact .inl ⟨rfl, rfl, rfl, rfl, rfl⟩
  · obtain ⟨hbit, hcpl⟩ := returnsToV86_iff.mp hv
    obtain ⟨-, -, hvm⟩ := modeOf_eq_protectedMode_iff.mp hm
    refine .inr (.inl ⟨?_, ?_⟩)
    · rw [commitV86_cpl, hcpl]
      decide
    · rw [hvm]
      exact Bool.ne_false_iff.mpr hbit
  · obtain ⟨hlt, st, q, sh, m, -, -, -, -, rfl⟩ | ⟨-, -, sh, m, -, -, rfl⟩ | ⟨-, -, st, q, sh, m, -, -, -, -, rfl⟩ :=
      hreturn
    · exact .inr (.inr ⟨hlt, rfl, rfl, rfl, rfl⟩)
    · exact .inl ⟨rfl, rfl, rfl, rfl, rfl⟩
    · exact .inl ⟨rfl, rfl, rfl, rfl, rfl⟩

/-- Settles O48: a path that keeps CPL goes neither to virtual-8086 mode nor to an outer level. -/
theorem sameLevelKeepsDataSegments : Obligations.SameLevelKeepsDataSegments := by
  intro i n s t hi hn h hcpl
  obtain ⟨u, hu, rfl⟩ := exec_next hi hn h
  have hnotOuter : ¬ s.cpl < u.cpl := fun hlt => BitVec.lt_irrefl _ (hcpl ▸ hlt)
  obtain ⟨-, hsame⟩ | ⟨hlt, -⟩ | ⟨hlt, -⟩ := pathOf_dataSegments hu
  · exact hsame
  · exact absurd hlt hnotOuter
  · exact absurd hlt hnotOuter

/-- `NullifyIfInaccessible` gives selector 0 and an invalid register exactly where R218's condition holds. -/
theorem nullifyIfInaccessible_afterOuterReturn (idx : Nat) (name : SegName) (r : SegReg) (cpl : BitVec 2) :
    afterOuterReturn r (nullifyIfInaccessible idx name r cpl) cpl := by
  have hcond : (selNull r.sel || (decide (r.dpl < cpl) && (!r.code || !r.conforming))) = true ↔ inaccessible r cpl := by
    simp only [inaccessible, Bool.or_eq_true, Bool.and_eq_true, selNull_eq_true, decide_eq_true_eq, Bool.not_eq_true']
  rw [nullifyIfInaccessible]
  split
  next h => exact ⟨fun _ => ⟨rfl, rfl⟩, fun hout => absurd (hcond.mp h) hout⟩
  next h => exact ⟨fun hin => absurd (hcond.mpr hin) h, fun _ => rfl⟩

/-- Settles O49: a path that raises CPL and keeps VM is a return to an outer level. -/
theorem outerReturnNullifiesInaccessibleSegments : Obligations.OuterReturnNullifiesInaccessibleSegments := by
  intro i n s t hi hn h hlt hvm
  obtain ⟨u, hu, rfl⟩ := exec_next hi hn h
  obtain ⟨hcpl, -⟩ | ⟨-, hvm'⟩ | ⟨-, hds, hes, hfs, hgs⟩ := pathOf_dataSegments hu
  · rw [retire_cpl, hcpl] at hlt
    exact absurd hlt (BitVec.lt_irrefl _)
  · exact absurd hvm hvm'
  · rw [retire_ds, retire_es, retire_fs, retire_gs, retire_cpl, hds, hes, hfs, hgs]
    exact ⟨nullifyIfInaccessible_afterOuterReturn _ _ _ _, nullifyIfInaccessible_afterOuterReturn _ _ _ _,
      nullifyIfInaccessible_afterOuterReturn _ _ _ _, nullifyIfInaccessible_afterOuterReturn _ _ _ _⟩

end Sys2Proof.Machine
end

section
/-! PROOFS. Shadow stacks (45_iret_shadow_stack.md R250 to R260): where they are enabled and inert, the checks of each
protected-style return with the loads and compares of a frame, and the fault of a return whose checks raise. -/

namespace Sys2Proof.Machine

/-! ### The new mode, the range of a previous SSP and the linear return address -/

/-- The new mode is 64-bit mode with LMA and the L bit of the new CS (43 R195). -/
theorem newMode64_iff {s : State} {newCS : SegReg} : newMode64 s newCS = true ↔ s.eferLMA = true ∧ newCS.L = true :=
  Bool.and_eq_true_iff

/-- A word whose upper half is zero is below 2^32 (45 R255). -/
theorem upperHalf_eq_zero_iff {v : Word} : (v.extractLsb' 32 32 == 0#32) = true ↔ v.toNat < 2 ^ 32 := by
  have hv : v.toNat < 2 ^ 64 := v.isLt
  rw [beq_iff_eq, ← BitVec.toNat_inj, extractLsb'_toNat_div]
  simp only [BitVec.toNat_ofNat]
  omega

/-- Outside 64-bit mode the linear return address is the low doubleword of base plus offset (45 R259). -/
theorem lip_legacy {s : State} {newCS : SegReg} (h : newMode64 s newCS = false) (ip : Word) :
    (lip s newCS ip).toNat = (newCS.base.toNat + ip.toNat) % 2 ^ 32 := by
  rw [lip, h, if_neg Bool.false_ne_true, lowPart_toNat, BitVec.toNat_add, OpSize.bytes,
    Nat.mod_mod_of_dvd _ (Nat.pow_dvd_pow 2 (by decide))]

/-- Settles O56: both definitions branch on the new mode; outside 64-bit mode each takes the low doubleword. -/
theorem sspRangeAndLinearReturnAddress : Obligations.SspRangeAndLinearReturnAddress := by
  intro s newCS v
  rw [← newMode64_iff]
  refine ⟨fun h64 => ⟨?_, ?_⟩, fun hlegacy => ⟨?_, ?_⟩⟩
  · rw [prevSspInRange, if_pos h64]
  · rw [lip, if_pos h64]
  · rw [prevSspInRange, if_neg hlegacy]
    exact upperHalf_eq_zero_iff
  · exact lip_legacy (Bool.eq_false_iff.mpr hlegacy) v

/-! ### Where shadow stacks are enabled -/

/-- `ShadowStackEnabled` in bits (45 R250, decision D13). -/
theorem shadowStackEnabled_iff {s : State} {cpl : BitVec 2} : shadowStackEnabled s cpl = true ↔
    s.params.cetSupported = true ∧ s.cr4CET = true ∧ s.cr0PE = true ∧ s.eflags.VM = false
    ∧ (if cpl = 3#2 then s.uCet.getLsbD 0 = true else s.sCet.getLsbD 0 = true) := by
  simp only [shadowStackEnabled, Bool.and_eq_true, Bool.not_eq_true', and_assoc, userShstkEn, supervisorShstkEn]
  split <;> rfl

/-- The levels 0 to 2 share one enable bit (45 R250). -/
theorem shadowStackEnabled_supervisor (s : State) {p q : BitVec 2} (hp : p ≠ 3#2) (hq : q ≠ 3#2) :
    shadowStackEnabled s p = shadowStackEnabled s q := by
  rw [shadowStackEnabled, shadowStackEnabled, if_neg hp, if_neg hq]

/-- A level below another is a supervisor level. -/
theorem cpl_ne_three_of_lt {p q : BitVec 2} (h : p < q) : p ≠ 3#2 := by
  have hlt : p.toNat < q.toNat := h
  have hq : q.toNat < 4 := q.isLt
  rintro rfl
  simp only [BitVec.toNat_ofNat] at hlt
  omega

/-- Beyond VM, `ShadowStackEnabled` reads only what no execution changes (45 R250; 10_state.md R20, R44). -/
theorem shadowStackEnabled_of_sameControl {s t : State} (h : sameControl s t) (hvm : t.eflags.VM = s.eflags.VM)
    (cpl : BitVec 2) : shadowStackEnabled t cpl = shadowStackEnabled s cpl := by
  obtain ⟨-, hpe, -, hcet, -, -, hu, hs, -, -, -, hparams, -⟩ := h
  rw [shadowStackEnabled, shadowStackEnabled, userShstkEn, userShstkEn, supervisorShstkEn, supervisorShstkEn, hpe, hcet,
    hu, hs, hparams, hvm]

/-! ### The shadow-stack frame -/

/-- "4 byte aligned" in numbers (45 R260). -/
theorem aligned4_iff {v : Word} : aligned4 v = true ↔ v.toNat % 4 = 0 := by
  rw [aligned4, beq_iff_eq, ← BitVec.toNat_inj]
  simp

/-- The access of a shadow-stack load is a user's at CPL 3 (20_memory.md R68). -/
theorem shadowUser_eq (s : State) : shadowUser s = decide (s.cpl = 3#2) :=
  beq_eq_decide _ _

/-- A shadow-stack load stops with a page fault alone (20_memory.md R68). -/
theorem shstkLoad8_error {s : State} {la : Word} {e : Stop} (h : shstkLoad8 s la = .error e) :
    ∃ code page, e = .exc (.pf code page) :=
  loadV_error h

section
variable {s : State} {cs : Sel} {newCS : SegReg} {ip c l prev : Word} {e : Stop}

/-- The frame stops with its first load, of CS at SSP + 16 (45 R252). -/
theorem shadowFrame_cs_error (h : shstkLoad8 s (s.ssp + 16#64) = .error e) : shadowFrame s cs newCS ip = .error e := by
  rw [shadowFrame, h, check_error_bind]

/-- Then with that of the linear return address at SSP + 8. -/
theorem shadowFrame_lip_error (hc : shstkLoad8 s (s.ssp + 16#64) = .ok c)
    (h : shstkLoad8 s (s.ssp + 8#64) = .error e) : shadowFrame s cs newCS ip = .error e := by
  rw [shadowFrame, hc, check_ok_bind, h, check_error_bind]

/-- Then with that of the previous SSP at SSP. -/
theorem shadowFrame_prev_error (hc : shstkLoad8 s (s.ssp + 16#64) = .ok c)
    (hl : shstkLoad8 s (s.ssp + 8#64) = .ok l) (h : shstkLoad8 s s.ssp = .error e) :
    shadowFrame s cs newCS ip = .error e := by
  rw [shadowFrame, hc, check_ok_bind, hl, check_ok_bind, h, check_error_bind]

/-- A frame that is read is compared with CS and the linear return address; its previous SSP must be 4-byte aligned (45
R254, R257, R260). -/
theorem shadowFrame_of_loads (hc : shstkLoad8 s (s.ssp + 16#64) = .ok c) (hl : shstkLoad8 s (s.ssp + 8#64) = .ok l)
    (hp : shstkLoad8 s s.ssp = .ok prev) : shadowFrame s cs newCS ip =
      if c ≠ cs.setWidth 64 ∨ l ≠ lip s newCS ip ∨ prev.toNat % 4 ≠ 0 then .error (.exc .cp) else .ok prev := by
  rw [shadowFrame, hc, check_ok_bind, hl, check_ok_bind, hp, check_ok_bind, require_bind, require_bind, require_bind]
  simp only [beq_iff_eq, aligned4_iff]
  by_cases hcs : cs.setWidth 64 = c
  · by_cases hlip : lip s newCS ip = l
    · by_cases halign : prev.toNat % 4 = 0
      · rw [if_pos hcs, if_pos hlip, if_pos halign,
          if_neg fun hbad => hbad.elim (· hcs.symm) (·.elim (· hlip.symm) (· halign))]
      · rw [if_pos hcs, if_pos hlip, if_neg halign, if_pos (.inr (.inr halign))]
    · rw [if_pos hcs, if_neg hlip, if_pos (.inr (.inl (Ne.symm hlip)))]
  · rw [if_neg hcs, if_pos (.inl (Ne.symm hcs))]

end

/-- The checks of a return that restores SSP from a frame: the frame, the range of its previous SSP, and the token to
free for that SSP (45 R254, R257). -/
def restoringChecks (s : State) (cs : Sel) (newCS : SegReg) (ip : Word) (token : Word → Option Word) :
    Check ShadowResult := do
  let prev ← shadowFrame s cs newCS ip
  require (prevSspInRange s newCS prev) sspRangeFault
  .ok ⟨prev, token prev⟩

/-- A frame that stops ends these checks. -/
theorem restoringChecks_error {s : State} {cs : Sel} {newCS : SegReg} {ip : Word} {token : Word → Option Word}
    {e : Stop} (h : shadowFrame s cs newCS ip = .error e) : restoringChecks s cs newCS ip token = .error e := by
  rw [restoringChecks, h, check_error_bind]

/-- A frame that is read decides them: its compares, then the range of its previous SSP (45 R255). -/
theorem restoringChecks_of_loads {s : State} {cs : Sel} {newCS : SegReg} {ip c l prev : Word}
    (token : Word → Option Word) (hc : shstkLoad8 s (s.ssp + 16#64) = .ok c)
    (hl : shstkLoad8 s (s.ssp + 8#64) = .ok l) (hp : shstkLoad8 s s.ssp = .ok prev) :
    restoringChecks s cs newCS ip token =
      if c ≠ cs.setWidth 64 ∨ l ≠ lip s newCS ip ∨ prev.toNat % 4 ≠ 0 then .error (.exc .cp)
      else if prevSspInRange s newCS prev then .ok ⟨prev, token prev⟩
      else .error (.exc (.gp (some 0#32))) := by
  rw [restoringChecks, shadowFrame_of_loads hc hl hp]
  split
  · rfl
  · exact require_bind _ _ _

/-- The first load that stops ends these checks; all three answering, the frame decides them (45 R252, decision D8). -/
theorem restoringChecks_by_load (s : State) (cs : Sel) (newCS : SegReg) (ip : Word) (token : Word → Option Word) :
    (∀ e, shstkLoad8 s (s.ssp + 16#64) = .error e → restoringChecks s cs newCS ip token = .error e)
    ∧ (∀ c e, shstkLoad8 s (s.ssp + 16#64) = .ok c → shstkLoad8 s (s.ssp + 8#64) = .error e →
      restoringChecks s cs newCS ip token = .error e)
    ∧ (∀ c l e, shstkLoad8 s (s.ssp + 16#64) = .ok c → shstkLoad8 s (s.ssp + 8#64) = .ok l →
      shstkLoad8 s s.ssp = .error e → restoringChecks s cs newCS ip token = .error e)
    ∧ (∀ c l prev, shstkLoad8 s (s.ssp + 16#64) = .ok c → shstkLoad8 s (s.ssp + 8#64) = .ok l →
      shstkLoad8 s s.ssp = .ok prev → restoringChecks s cs newCS ip token =
        if c ≠ cs.setWidth 64 ∨ l ≠ lip s newCS ip ∨ prev.toNat % 4 ≠ 0 then .error (.exc .cp)
        else if prevSspInRange s newCS prev then .ok ⟨prev, token prev⟩
        else .error (.exc (.gp (some 0#32)))) :=
  ⟨fun _ h => restoringChecks_error (shadowFrame_cs_error h),
    fun _ _ hc h => restoringChecks_error (shadowFrame_lip_error hc h),
    fun _ _ _ hc hl h => restoringChecks_error (shadowFrame_prev_error hc hl h),
    fun _ _ _ hc hl hp => restoringChecks_of_loads token hc hl hp⟩

/-! ### The checks of each return -/

/-- Without a shadow stack a return to the same level keeps SSP and frees no token (45 R257). -/
theorem shadowSameChecks_disabled {s : State} (h : shadowStackEnabled s s.cpl = false) (cs : Sel) (newCS : SegReg)
    (ip : Word) : shadowSameChecks s cs newCS ip = .ok ⟨s.ssp, none⟩ := by
  rw [shadowSameChecks, h, if_neg Bool.false_ne_true]

/-- With one, SSP must be 8-byte aligned (45 R253), and a frame restores it; the token above the frame is freed in IA-32e
mode unless the previous SSP is its address (45 R257). -/
theorem shadowSameChecks_enabled {s : State} (h : shadowStackEnabled s s.cpl = true) (cs : Sel) (newCS : SegReg)
    (ip : Word) : shadowSameChecks s cs newCS ip = if s.ssp.toNat % 8 = 0 then
        restoringChecks s cs newCS ip fun prev =>
          if s.eferLMA = true ∧ prev ≠ s.ssp + 24#64 then some (s.ssp + 24#64) else none
      else .error (.exc .cp) := by
  rw [shadowSameChecks, if_pos h, require_bind]
  simp only [aligned8_iff, Bool.and_eq_true, bne_iff_ne]
  rfl

/-- Without a shadow stack at the old and the new level a return to an outer level keeps SSP and frees no token (45
R254). -/
theorem shadowOuterChecks_disabled {s : State} {rpl : BitVec 2} (h : shadowStackEnabled s s.cpl = false)
    (hrpl : shadowStackEnabled s rpl = false) (cs : Sel) (newCS : SegReg) (ip : Word) :
    shadowOuterChecks s rpl cs newCS ip = .ok ⟨s.ssp, none⟩ := by
  unfold shadowOuterChecks outerFrame
  rw [h, hrpl]
  rfl

/-- To level 1 or 2, with a shadow stack, SSP must be 8-byte aligned, and a frame restores it; the token above the frame
is freed (45 R254). -/
theorem shadowOuterChecks_supervisor {s : State} {rpl : BitVec 2} (hlt : s.cpl < rpl) (hrpl : rpl ≠ 3#2)
    (h : shadowStackEnabled s s.cpl = true) (cs : Sel) (newCS : SegReg) (ip : Word) :
    shadowOuterChecks s rpl cs newCS ip = if s.ssp.toNat % 8 = 0 then
        restoringChecks s cs newCS ip fun _ => some (s.ssp + 24#64)
      else .error (.exc .cp) := by
  have hnew : shadowStackEnabled s rpl = true :=
    (shadowStackEnabled_supervisor s hrpl (cpl_ne_three_of_lt hlt)).trans h
  unfold shadowOuterChecks outerFrame
  rw [if_pos h, require_bind, if_neg hrpl]
  by_cases hssp : s.ssp.toNat % 8 = 0
  · rw [if_pos (aligned8_iff.mpr hssp), if_pos hssp, restoringChecks]
    cases shadowFrame s cs newCS ip with
    | error e => rfl
    | ok prev =>
      have hprev : outerPrev s rpl (some prev) = .ok prev := if_neg hrpl
      simp only [check_ok_bind, h, hnew, if_true, hprev]
      rfl
  · rw [if_neg (mt aligned8_iff.mp hssp), if_neg hssp, check_error_bind]

/-- The frame of a return to level 3 is none; SSP is only checked, where the old level has a shadow stack (45 R253,
R254). -/
theorem outerFrame_level3 (s : State) (cs : Sel) (newCS : SegReg) (ip : Word) : outerFrame s 3#2 cs newCS ip =
    if shadowStackEnabled s s.cpl = true ∧ s.ssp.toNat % 8 ≠ 0 then .error (.exc .cp) else .ok none := by
  rw [outerFrame, require_bind, if_pos rfl]
  by_cases h : shadowStackEnabled s s.cpl = true
  · simp only [h, true_and, if_true, aligned8_iff, ite_not]
  · rw [if_neg h, if_neg fun hbad => h hbad.1]

/-- The SSP that level 3 takes is IA32_PL3_SSP, 4-byte aligned (45 R254, R260). -/
theorem outerPrev_level3 (s : State) (popped : Option Word) : outerPrev s 3#2 popped =
    if s.pl3Ssp.toNat % 4 ≠ 0 then .error (.exc .cp) else .ok s.pl3Ssp := by
  unfold outerPrev
  rw [if_pos rfl, require_bind]
  simp only [aligned4_iff, ite_not]

/-- The checks of a return to level 3: SSP, then IA32_PL3_SSP where user shadow stacks are enabled (45 R254, decision
D8). -/
theorem shadowOuterChecks_level3 (s : State) (cs : Sel) (newCS : SegReg) (ip : Word) :
    shadowOuterChecks s 3#2 cs newCS ip =
      (let token := if shadowStackEnabled s s.cpl then some s.ssp else none
       if shadowStackEnabled s s.cpl = true ∧ s.ssp.toNat % 8 ≠ 0 then .error (.exc .cp)
       else if shadowStackEnabled s 3#2 = false then .ok ⟨s.ssp, token⟩
       else if s.pl3Ssp.toNat % 4 ≠ 0 then .error (.exc .cp)
       else if prevSspInRange s newCS s.pl3Ssp then .ok ⟨s.pl3Ssp, token⟩
       else .error (.exc (.gp (some 0#32)))) := by
  rw [shadowOuterChecks, outerFrame_level3]
  by_cases hssp : shadowStackEnabled s s.cpl = true ∧ s.ssp.toNat % 8 ≠ 0
  · rw [if_pos hssp, if_pos hssp]
    rfl
  · rw [if_neg hssp, if_neg hssp, check_ok_bind, outerPrev_level3]
    cases huser : shadowStackEnabled s 3#2 with
    | false => rfl
    | true =>
      rw [if_pos rfl, if_neg Bool.true_eq_false.mp]
      split
      · rfl
      · exact require_bind _ _ _

/-! ### The fault of a return whose checks raise -/

theorem shadowChecks_outer {s : State} {cs : Sel} (h : s.cpl < selRpl cs) (newCS : SegReg) (ip : Word) :
    shadowChecks s cs newCS ip = shadowOuterChecks s (selRpl cs) cs newCS ip :=
  if_pos h

theorem shadowChecks_same {s : State} {cs : Sel} (h : selRpl cs = s.cpl) (newCS : SegReg) (ip : Word) :
    shadowChecks s cs newCS ip = shadowSameChecks s cs newCS ip :=
  if_neg (h ▸ BitVec.lt_irrefl _)

/-- The exception of the shadow-stack checks is the fault of a return that reaches them (44 R215, R219, R220). -/
theorem exec_fault_of_shadowChecks {i : Instr} {n : OpSize} {s : State} {ip d : Word} {cs : Sel} {x : Exception}
    (hi : i.opSize = some n) (h : reachesShadowChecks n s ip cs d)
    (hx : shadowChecks s cs (segFromDescriptor cs d) ip = .error (.exc x)) :
    exec i s = .fault (.exception x { s with nmiBlocked := false }) := by
  obtain ⟨f, rfl, rfl, hpath, hc, hss, hip⟩ := reachesShadowChecks_return h
  exact exec_fault_of_reaches hi h (hpath.trans (protectedReturn_shadow_error hc hss hip hx))

/-- Settles O53: the checks of a return to level 3 in their order, and their exception stops the return. -/
theorem shadowChecksOfReturnToLevel3 : Obligations.ShadowChecksOfReturnToLevel3 := by
  intro s cs newCS ip
  refine ⟨shadowOuterChecks_level3 s cs newCS ip, fun i n d x hi h hlt hrpl hx => ?_⟩
  refine exec_fault_of_shadowChecks hi h ?_
  rw [shadowChecks_outer hlt, hrpl]
  exact hx

/-- Settles O54: with a supervisor shadow stack the checks are those of a frame that restores SSP, and their exception
stops the return. -/
theorem shadowChecksOfReturnToSupervisorLevel : Obligations.ShadowChecksOfReturnToSupervisorLevel := by
  intro s rpl cs newCS ip hlt hrpl
  refine ⟨fun la => by rw [shstkLoad8, shadowUser_eq], shadowUser_eq s, fun la e => shstkLoad8_error, fun hoff => ?_,
    fun hon hssp => ?_, fun hon hssp => ?_, ?_⟩
  · have hnew : shadowStackEnabled s rpl = false :=
      (shadowStackEnabled_supervisor s hrpl (cpl_ne_three_of_lt hlt)).trans hoff
    exact shadowOuterChecks_disabled hoff hnew cs newCS ip
  · rw [shadowOuterChecks_supervisor hlt hrpl hon, if_neg hssp]
  · rw [shadowOuterChecks_supervisor hlt hrpl hon, if_pos hssp]
    exact restoringChecks_by_load s cs newCS ip _
  · rintro i n d x hi h rfl hx
    exact exec_fault_of_shadowChecks hi h ((shadowChecks_outer hlt _ _).trans hx)

/-- Settles O55: with a shadow stack the checks are those of a frame that restores SSP, and their exception stops the
return. -/
theorem shadowChecksOfSamePrivilegeReturn : Obligations.ShadowChecksOfSamePrivilegeReturn := by
  intro s cs newCS ip
  refine ⟨fun la => by rw [shstkLoad8, shadowUser_eq], shadowUser_eq s, fun la e => shstkLoad8_error,
    fun hoff => shadowSameChecks_disabled hoff cs newCS ip, fun hon hssp => ?_, fun hon hssp => ?_, ?_⟩
  · rw [shadowSameChecks_enabled hon, if_neg hssp]
  · rw [shadowSameChecks_enabled hon, if_pos hssp]
    exact restoringChecks_by_load s cs newCS ip _
  · intro i n d x hi h hrpl hx
    exact exec_fault_of_shadowChecks hi h ((shadowChecks_same hrpl _ _).trans hx)

/-! ### Where shadow stacks are inert -/

/-- A path keeps SSP where the old and the new level have no shadow stack: a return to virtual-8086 mode never pops SSP,
and the other returns keep VM, so that the checks see the new level as it ends up (10_state.md R39; 45 R258). -/
theorem pathOf_ssp {n : OpSize} {s t : State} (h : pathOf n s = .ok t) (hold : shadowStackEnabled s s.cpl = false)
    (hnew : shadowStackEnabled t t.cpl = false) : t.ssp = s.ssp := by
  have hcontrol : sameControl s t := (pathOf_sameSystem h).1
  obtain ⟨f, -, ⟨-, -, rfl⟩ | ⟨-, -, -, rfl⟩ | ⟨-, -, v, m, -, -, rfl⟩ | ⟨-, -, -, c, -, hreturn⟩⟩ := pathOf_cases h
  · rfl
  · rfl
  · rfl
  · obtain ⟨-, st, q, sh, m, -, -, hsh, -, rfl⟩ | ⟨-, -, sh, m, hsh, -, rfl⟩ | ⟨-, -, st, q, sh, m, -, -, hsh, -, rfl⟩ :=
      hreturn
    · have hrpl : shadowStackEnabled s (selRpl f.cs) = false :=
        (shadowStackEnabled_of_sameControl hcontrol (writeFlagsProt_VM _ _ _ _) _).symm.trans hnew
      rw [shadowOuterChecks_disabled hold hrpl] at hsh
      cases hsh
      rfl
    · rw [shadowSameChecks_disabled hold] at hsh
      cases hsh
      rfl
    · rw [shadowSameChecks_disabled hold] at hsh
      cases hsh
      rfl

/-- So does a task return: the new task's SSP is loaded only where a level has a shadow stack (10_state.md R39; log
23). -/
theorem taskReturn_ssp {len : Nat} {s t : State} (h : taskReturn len s = .next t)
    (hold : shadowStackEnabled s s.cpl = false) (hnew : shadowStackEnabled t t.cpl = false) : t.ssp = s.ssp := by
  obtain ⟨r, -, image, u, l, -, ⟨m, rfl, -⟩, rfl⟩ := taskReturn_next_enters h
  exact switchedSsp_kept hold hnew

/-- And every execution (10_state.md R39). -/
theorem exec_ssp {i : Instr} {s t : State} (h : exec i s = .next t) (hold : shadowStackEnabled s s.cpl = false)
    (hnew : shadowStackEnabled t t.cpl = false) : t.ssp = s.ssp := by
  cases hn : takesTaskReturn s with
  | true => exact taskReturn_ssp (exec_next_taskReturn hn h) hold hnew
  | false =>
    obtain ⟨n, hi⟩ := exec_next_opSize h
    obtain ⟨u, hu, rfl⟩ := exec_next hi hn h
    exact (retire_ssp u).trans (pathOf_ssp hu hold hnew)

/-- Without the write-back the load of CS marks nothing (20_memory.md R70). -/
theorem returnCSCheck_mark_none {s : State} {sel : Sel} {c : LoadedSeg} (hw : s.params.descAccessedWriteback = false)
    (h : returnCSCheck s sel = .ok c) : c.mark = none := by
  obtain ⟨d, -, -, -, -, rfl⟩ := returnCSCheck_ok.mp h
  exact loadSegment_mark_of_accessed fun hon => absurd hon (Bool.eq_false_iff.mp hw)

/-- Nor does that of SS. -/
theorem returnSSCheck_mark_none {s : State} {sel : Sel} {rpl : BitVec 2} {newCS : SegReg} {q : LoadedSeg}
    (hw : s.params.descAccessedWriteback = false) (h : returnSSCheck s sel rpl newCS = .ok q) : q.mark = none := by
  obtain ⟨-, -, rfl⟩ | ⟨-, d, -, -, -, rfl⟩ := returnSSCheck_ok.mp h
  · rfl
  · exact loadSegment_mark_of_accessed fun hon => absurd hon (Bool.eq_false_iff.mp hw)

/-- A Commit without marks and token leaves memory as it was. -/
theorem mem_of_commitStores_none {s : State} {m : Memory} {cs ss token : Option Word} (hcs : cs = none)
    (hss : ss = none) (ht : token = none) (h : commitStores s cs ss token = .ok { s with mem := m }) : m = s.mem := by
  rw [hcs, hss, ht, commitStores_none] at h
  exact congrArg State.mem (Except.ok.inj h).symm

/-- With CR4.CET = 0 and without the write-back a path stores nothing: no token is to be freed and no accessed bit to be
set. -/
theorem pathOf_mem_of_cetOff {n : OpSize} {s t : State} (h : pathOf n s = .ok t) (hcet : s.cr4CET = false)
    (hw : s.params.descAccessedWriteback = false) : t.mem = s.mem := by
  obtain ⟨f, -, ⟨-, -, rfl⟩ | ⟨-, -, -, rfl⟩ | ⟨-, -, v, m, -, hm, rfl⟩ | ⟨-, -, -, c, hc, hreturn⟩⟩ := pathOf_cases h
  · rfl
  · rfl
  · rw [freeToken_v86Token, shadowStackEnabled_of_cetOff hcet] at hm
    exact (commitV86_mem _ _ _).trans (congrArg State.mem (Except.ok.inj hm).symm)
  · have hcs : c.mark = none := returnCSCheck_mark_none hw hc
    obtain ⟨-, st, q, sh, m, -, hq, hsh, hm, rfl⟩ | ⟨-, -, sh, m, hsh, hm, rfl⟩ |
      ⟨-, -, st, q, sh, m, -, hq, hsh, hm, rfl⟩ := hreturn
    · rw [shadowOuterChecks_of_cetOff hcet] at hsh
      cases hsh
      exact mem_of_commitStores_none hcs (returnSSCheck_mark_none hw hq) rfl hm
    · rw [shadowSameChecks_of_cetOff hcet] at hsh
      cases hsh
      exact mem_of_commitStores_none hcs rfl rfl hm
    · rw [shadowSameChecks_of_cetOff hcet] at hsh
      cases hsh
      exact mem_of_commitStores_none hcs (returnSSCheck_mark_none hw hq) rfl hm

/-- Settles O52: the enable condition in bits; SSP is kept where it fails at both levels, as it does with CR4.CET = 0,
which no execution changes; and then a path stores nothing. -/
theorem shadowStackInertWithoutCet : Obligations.ShadowStackInertWithoutCet := by
  refine ⟨fun s cpl => shadowStackEnabled_iff, fun i s t => exec_ssp, fun i n s t hi hn hcet h => ⟨?_, fun hw => ?_⟩⟩
  · obtain ⟨⟨-, -, -, hcet', -⟩, -⟩ := systemRegistersAreLeftAlone i s t h
    exact exec_ssp h (shadowStackEnabled_of_cetOff hcet _) (shadowStackEnabled_of_cetOff (hcet'.trans hcet) _)
  · obtain ⟨u, hu, rfl⟩ := exec_next hi hn h
    exact (retire_mem u).trans (pathOf_mem_of_cetOff hu hcet hw)

end Sys2Proof.Machine
end

section
/-! PROOFS. Exceptions and privilege (60_exceptions.md): the state a fault leaves (R288, 42 R165), and the guards of
CPL, IOPL, IF and the virtual flags (R293). -/

namespace Sys2Proof.Machine

/-! ### CPL -/

/-- A path keeps CPL, or it ends at an outer level (44 R210 row 4; 42 R169). -/
theorem pathOf_cpl_le {n : OpSize} {s t : State} (h : pathOf n s = .ok t) : s.cpl ≤ t.cpl := by
  obtain ⟨hcpl, -⟩ | ⟨hlt, -⟩ | ⟨hlt, -⟩ := pathOf_dataSegments h
  · exact BitVec.le_of_eq hcpl.symm
  · exact BitVec.le_of_lt hlt
  · exact BitVec.le_of_lt hlt

/-- Settles O46: what completes is a path, which never goes to an inner level. -/
theorem privilegeIsNeverRaised : Obligations.PrivilegeIsNeverRaised := by
  intro i n s t hi hn h
  obtain ⟨u, hu, rfl⟩ := exec_next hi hn h
  rw [retire_cpl]
  exact pathOf_cpl_le hu

/-! ### The guarded flags -/

/-- The return within virtual-8086 mode completes only with IOPL 3 (41 R144). -/
theorem pathOf_v8086_IOPL {n : OpSize} {s t : State} (hm : modeOf s = .v8086) (h : pathOf n s = .ok t) :
    s.eflags.IOPL = 3#2 := by
  by_contra hiopl
  rw [pathOf_v8086 hm, returnFromVirtual8086_iopl_error n hiopl] at h
  cases h

/-- Above CPL 0, outside real-address mode, a path updates EFLAGS as virtual-8086 mode does, with IOPL 3, or as a
protected-style return does: the return to virtual-8086 mode, which takes the whole image, is for CPL 0 (42 R162). -/
theorem pathOf_eflags_above_cpl0 {n : OpSize} {s t : State} (hpe : s.cr0PE = true) (hcpl : s.cpl ≠ 0#2)
    (h : pathOf n s = .ok t) : ∃ img,
      (s.eflags.IOPL = 3#2 ∧ t.eflags = writeFlagsV86 s.eflags img n)
      ∨ t.eflags = writeFlagsProt s.eflags img n s.cpl := by
  obtain ⟨f, -, ⟨hm, -⟩ | ⟨hm, hflags⟩ | ⟨-, hv, -⟩ | ⟨-, -, hflags⟩⟩ := pathOf_eflags h
  · have hreal : s.cr0PE = false := modeOf_eq_real_iff.mp hm
    rw [hpe] at hreal
    cases hreal
  · exact ⟨_, .inl ⟨pathOf_v8086_IOPL hm h, hflags⟩⟩
  · exact absurd (returnsToV86_iff.mp hv).2 hcpl
  · exact ⟨_, .inr hflags⟩

/-- IOPL, VIF, VIP and VM are the same (R293). -/
def samePrivilegedFlags (f g : Eflags) : Prop :=
  g.IOPL = f.IOPL ∧ g.VIF = f.VIF ∧ g.VIP = f.VIP ∧ g.VM = f.VM

theorem samePrivilegedFlags_writeFlagsV86 (f img : Eflags) (n : OpSize) :
    samePrivilegedFlags f (writeFlagsV86 f img n) := by
  cases n <;> exact ⟨rfl, rfl, rfl, rfl⟩

theorem samePrivilegedFlags_writeFlagsProt (f img : Eflags) (n : OpSize) {cpl : BitVec 2} (hcpl : cpl ≠ 0#2) :
    samePrivilegedFlags f (writeFlagsProt f img n cpl) := by
  rw [writeFlagsProt_eq]
  simp [samePrivilegedFlags, hcpl]

/-- Settles O42: neither update that a path makes above CPL 0 writes one of the four. -/
theorem onlyCpl0ChangesIoplAndVirtualFlags : Obligations.OnlyCpl0ChangesIoplAndVirtualFlags := by
  intro i n s t hi hpe hn hcpl h
  obtain ⟨u, hu, rfl⟩ := exec_next hi hn h
  rw [retire_eflags]
  obtain ⟨img, ⟨-, hflags⟩ | hflags⟩ := pathOf_eflags_above_cpl0 hpe hcpl hu
  · rw [hflags]
    exact samePrivilegedFlags_writeFlagsV86 s.eflags img n
  · rw [hflags]
    exact samePrivilegedFlags_writeFlagsProt s.eflags img n hcpl

theorem writeFlagsProt_IF_of_lt (f img : Eflags) (n : OpSize) {cpl : BitVec 2} (h : f.IOPL < cpl) :
    (writeFlagsProt f img n cpl).IF = f.IF := by
  rw [writeFlagsProt_eq]
  exact if_neg (BitVec.not_le.mpr h)

/-- Settles O43: with IOPL below CPL, CPL is not 0 and IOPL is not 3, so the update is that of a protected-style return,
which writes IF only where CPL is at most IOPL. -/
theorem interruptFlagGuardedByIopl : Obligations.InterruptFlagGuardedByIopl := by
  intro i n s t hi hpe hn hlt h
  have hcpl : s.cpl ≠ 0#2 := fun hzero => BitVec.not_lt_zero (hzero ▸ hlt)
  have hiopl : s.eflags.IOPL ≠ 3#2 := cpl_ne_three_of_lt hlt
  obtain ⟨u, hu, rfl⟩ := exec_next hi hn h
  rw [retire_eflags]
  obtain ⟨img, ⟨hthree, -⟩ | hflags⟩ := pathOf_eflags_above_cpl0 hpe hcpl hu
  · exact absurd hthree hiopl
  · rw [hflags]
    exact writeFlagsProt_IF_of_lt s.eflags img n hlt

/-! ### What a fault leaves -/

/-- The only fault at the end of a task return is the late `#GP(0)` of an EIP above the new CS limit (42 R165). -/
theorem endTaskReturn_fault {t left : State} {x : Exception} (h : endTaskReturn t = .fault (.exception x left)) :
    x = gp0 ∧ t.cs.limit.toNat < (t.rip.setWidth 32).toNat ∧ left = { t with nmiBlocked := false } := by
  rcases Nat.lt_or_ge t.cs.limit.toNat (t.rip.setWidth 32).toNat with hip | hip
  · rw [endTaskReturn_outside hip] at h
    cases h
    exact ⟨rfl, hip, rfl⟩
  · rw [endTaskReturn_within hip] at h
    cases h

/-- A busy bit that is cleared was cleared where its write is translated, in the new task. -/
theorem clearBusy_ok {s u : State} {t : TaskImage} (h : clearBusy (enterTask s t) s.tr.sel = .ok u) :
    ∃ pa, translate (enterTask s t) .supervisorWrite (tssDescriptorAddr s s.tr.sel + 5#64) = .ok pa
      ∧ u = enteredTask s t pa := by
  obtain ⟨pa, hpa, rfl⟩ := modifyByte_ok.mp h
  exact ⟨pa, hpa, rfl⟩

/-- A fault of the switch leaves the old task, or it is the late one, in the new task with the busy bit cleared. -/
theorem switchTo_fault {s left : State} {answer : Option SwitchResult} {x : Exception}
    (h : switchTo s answer = .fault (.exception x left)) :
    left = unblockNmi s
    ∨ (x = gp0 ∧ ∃ t pa, answer = some (.switched t)
      ∧ translate (enterTask s t) .supervisorWrite (tssDescriptorAddr s s.tr.sel + 5#64) = .ok pa
      ∧ t.cs.limit.toNat < (t.rip.setWidth 32).toNat ∧ left = { enteredTask s t pa with nmiBlocked := false }) := by
  unfold switchTo at h
  split at h
  · cases h
  · cases h
    exact .inl rfl
  next t =>
    split at h
    next u hbusy =>
      obtain ⟨pa, hpa, rfl⟩ := clearBusy_ok hbusy
      obtain ⟨hx, hip, hleft⟩ := endTaskReturn_fault h
      exact .inr ⟨hx, t, pa, rfl, hpa, hip, hleft⟩
    · cases h
      exact .inl rfl
    · cases h

/-- A fault of a task return leaves the old task, or its link was good and the fault is one of the switch. -/
theorem taskReturn_fault {len : Nat} {s left : State} {x : Exception}
    (h : taskReturn len s = .fault (.exception x left)) :
    left = unblockNmi s
    ∨ ∃ link, checkedLink s = .ok link
      ∧ switchTo s (lookupTask link (returnAddress s len) s.tasks) = .fault (.exception x left) := by
  unfold taskReturn at h
  split at h
  next link hlink => exact .inr ⟨link, hlink, h⟩
  · cases h
    exact .inl rfl
  · cases h

/-- An execution with NT = 1 in protected mode: refused in VMX non-root operation, else a task return (42 R160). -/
theorem iretExec_of_takesTaskReturn {n : OpSize} {len : Nat} {s : State} (h : takesTaskReturn s = true) :
    iretExec n len s = if s.vmxNonRoot = true then .refused .vmxNonRoot else taskReturn len s := by
  obtain ⟨hd, ht⟩ := Bool.and_eq_true_iff.mp h
  unfold iretExec
  rw [of_decide_eq_true hd, ht]
  rfl

/-- A fault of an execution with NT = 1 in protected mode is that of the task return. -/
theorem exec_fault_taskReturn {i : Instr} {n : OpSize} {s : State} {f : Fault} (hi : i.opSize = some n)
    (hn : takesTaskReturn s = true) (h : exec i s = .fault f) : taskReturn i.length s = .fault f := by
  rw [exec_eq hi, iretExec_of_takesTaskReturn hn] at h
  split at h
  · cases h
  · split at h
    · cases h
    · exact h

/-- Settles O28: a fault of a path leaves the state before, with NMIs unblocked; so do those of a task return before the
switch is committed, and the one after it is the late check of EIP. Vectors and codes are those of their definitions. -/
theorem faultsArePrecise : Obligations.FaultsArePrecise := by
  refine ⟨fun i n s left x hi h => ?_, ⟨rfl, rfl⟩, fun _ => ⟨rfl, rfl⟩, fun _ => ⟨rfl, rfl⟩, fun _ => ⟨rfl, rfl⟩,
    fun _ _ => ⟨rfl, rfl⟩, ⟨rfl, rfl⟩, ⟨rfl, rfl⟩, fun _ _ => ⟨rfl, rfl⟩⟩
  cases hn : takesTaskReturn s with
  | false =>
    obtain ⟨_, -, hfault⟩ := exec_fault hi hn h
    cases hfault
    exact .inl rfl
  | true =>
    obtain hleft | ⟨link, hlink, hswitch⟩ := taskReturn_fault (exec_fault_taskReturn hi hn h)
    · exact .inl hleft
    · obtain hleft | ⟨hx, t, pa, hanswer, hpa, hip, hleft⟩ := switchTo_fault hswitch
      · exact .inl hleft
      · exact .inr ⟨rfl, hx, link, t, pa, hlink, hanswer, hpa, hip, hleft⟩

end Sys2Proof.Machine
end

section
/-! PROOFS. The end of a run (70_reset_and_hazards.md R335): bytes at CS:RIP that are no instruction in scope. -/

namespace Sys2Proof.Machine

/-- Settles O7: the only other branch of `step`, beside `step_of_decode`, hands on the decoder's reason. -/
theorem stepRefusesBytesOutOfScope : Obligations.StepRefusesBytesOutOfScope := by
  intro s e hdecode
  rw [step, hdecode]

end Sys2Proof.Machine
end
